-- ==== Sys2Proof/Word.lean ====
section
/-! DEFINITION. The widths of the block's data: a byte of a frame field, a 32-bit register. -/

namespace Sys2Proof

/-- An 8-bit frame field or buffer byte (spec 00_scope R14, R19). -/
abbrev Byte := BitVec 8

/-- A 32-bit register or host data word (spec 00_scope R14). -/
abbrev Word := BitVec 32

end Sys2Proof
end

