-- ==== Sys2Proof/Config.lean ====
section
/-! DEFINITION. The constants the spec fixes and the parameters an integration chooses. -/

namespace Sys2Proof

/-- MARKER (spec 00_scope R7). -/
def marker : Byte := 0x10

/-- END (spec 00_scope R8). -/
def endByte : Byte := 0x03

/-- CHUNK_MAX (spec 00_scope R9). -/
def chunkMax : Nat := 250

/-- BUF_BYTES (spec 00_scope R12). -/
def bufBytes : Nat := 256

/-- The size in bytes of the register window (spec 10_state R22). -/
def windowBytes : Nat := 4096

/-- The parameters an integration fixes. They stand in the state and no step changes them, so a
statement for every state holds for every choice of them (log entries 12 and 13). -/
structure Config where
  /-- BSC_BASE (spec 00_scope R13), OPEN in the spec. -/
  bscBase : Nat
  /-- LEN_STUFFED_ON_TX (spec 00_scope R11). -/
  lenStuffedOnTx : Bool
  deriving DecidableEq, Repr

/-- The parameters State.reset stands with: LEN_STUFFED_ON_TX has the spec's default (R11);
BSC_BASE = 0 is a DESIGN CHOICE, unsafe (log entry 12). -/
def Config.default : Config := { bscBase := 0, lenStuffedOnTx := true }

end Sys2Proof
end

