-- ==== Sys2Proof/Syntax.lean ====
section
/-! DEFINITION. The six commands: one constructor per row of spec/opcode_table.json. -/

namespace Sys2Proof

/-- A legal command word by its fields. Every command has both TYPE and LEN (spec 30_encoding R80),
also where it ignores one (R83, R84), because CMD reads back the whole word (10_state R24). -/
inductive Instr where
  /-- ESC N (spec 40_codec R112); TYPE is ignored. -/
  | esc (ty len : Byte)
  /-- UNESC (spec 40_codec R116); TYPE and LEN are ignored. -/
  | unesc (ty len : Byte)
  /-- CKSUM N (spec 41_checksum R131); TYPE is ignored. -/
  | cksum (ty len : Byte)
  /-- FRAME T, N (spec 42_framer R141). -/
  | frame (ty len : Byte)
  /-- CHUNK T, N (spec 42_framer R150). -/
  | chunk (ty len : Byte)
  /-- PARSE (spec 42_framer R160); TYPE and LEN are ignored. -/
  | parse (ty len : Byte)
  deriving DecidableEq, Repr

end Sys2Proof
end

