-- ==== Sys2Proof/WellFormed.lean ====
section
/-! DEFINITION. Which commands have their operands in the range the spec calls legal. -/

namespace Sys2Proof

/-- The one operand range of the spec: CHUNK takes at most CHUNK_MAX data bytes (30_encoding R84).
A CHUNK outside it still decodes, and its acceptance raises LEN_RANGE (60_exceptions R199). -/
def Instr.wellFormed : Instr → Bool
  | .esc _ _ => true
  | .unesc _ _ => true
  | .cksum _ _ => true
  | .frame _ _ => true
  | .chunk _ len => decide (len.toNat ≤ chunkMax)
  | .parse _ _ => true

end Sys2Proof
end

