-- ==== Sys2Proof/Decode.lean ====
section
/-! DEFINITION. The command word: its decoder, and the encoder after it. -/

namespace Sys2Proof

/-- Why a word is no command (spec 30_encoding R82, R88). -/
inductive DecodeError where
  /-- RSV0 or RSV1 is not zero (R82). -/
  | reservedField
  /-- OP is 0x0 or 0x7 to 0xF (R88). -/
  | reservedOp
  deriving DecidableEq, Repr

/-- OP, bits [3:0] (spec 30_encoding R80). -/
def opField (w : Word) : BitVec 4 := w.extractLsb' 0 4

/-- RSV0, bits [7:4] (R80). -/
def rsv0Field (w : Word) : BitVec 4 := w.extractLsb' 4 4

/-- TYPE, bits [15:8] (R80, R83). -/
def typeField (w : Word) : Byte := w.extractLsb' 8 8

/-- LEN, bits [23:16] (R80, R84). -/
def lenField (w : Word) : Byte := w.extractLsb' 16 8

/-- RSV1, bits [31:24] (R80). -/
def rsv1Field (w : Word) : Byte := w.extractLsb' 24 8

/-- The command a word stands for (spec 30_encoding R81), or why it stands for none (R82, R88). -/
def decode (w : Word) : Except DecodeError Instr :=
  if rsv0Field w ≠ 0 ∨ rsv1Field w ≠ 0 then .error .reservedField
  else
    match (opField w).toNat with
    | 1 => .ok (.esc (typeField w) (lenField w))
    | 2 => .ok (.unesc (typeField w) (lenField w))
    | 3 => .ok (.cksum (typeField w) (lenField w))
    | 4 => .ok (.frame (typeField w) (lenField w))
    | 5 => .ok (.chunk (typeField w) (lenField w))
    | 6 => .ok (.parse (typeField w) (lenField w))
    | _ => .error .reservedOp

/-- The command read from an instruction of nbits bits given as a number, bit 0 its least
significant bit. A command is exactly one 32-bit word (spec 30_encoding R86), and the host bus has
no byte order (20_memory R62), so there is one way to lay it out. -/
def decodeTableWord (nbits w : Nat) : Option Instr :=
  match decode (BitVec.ofNat 32 (w % 2 ^ nbits)) with
  | .ok i => some i
  | .error _ => none

/-- A word from its OP, TYPE and LEN, the reserved fields zero (spec 30_encoding R80). -/
def packWord (op : BitVec 4) (ty len : Byte) : Word := 0#8 ++ len ++ ty ++ 0#4 ++ op

/-- The word of a command (spec 30_encoding R80, R81, R89). -/
def encode : Instr → Word
  | .esc ty len => packWord 1 ty len
  | .unesc ty len => packWord 2 ty len
  | .cksum ty len => packWord 3 ty len
  | .frame ty len => packWord 4 ty len
  | .chunk ty len => packWord 5 ty len
  | .parse ty len => packWord 6 ty len

/-- The assembler's `ESC N` (spec 30_encoding R89): ignored fields are written as 0. -/
def asmEsc (n : Byte) : Instr := .esc 0 n

/-- `UNESC` (R89). -/
def asmUnesc : Instr := .unesc 0 0

/-- `CKSUM N` (R89). -/
def asmCksum (n : Byte) : Instr := .cksum 0 n

/-- `FRAME T, N` (R89). -/
def asmFrame (t n : Byte) : Instr := .frame t n

/-- `CHUNK T, N` (R89). -/
def asmChunk (t n : Byte) : Instr := .chunk t n

/-- `PARSE` (R89). -/
def asmParse : Instr := .parse 0 0

end Sys2Proof
end

