-- ==== Sys2Proof/Machine/State.lean ====
section
/-! DEFINITION. Everything the block holds, the environment it runs in, why a step can stop, reset. -/

namespace Sys2Proof.Machine

/-- The content of a buffer: (index, byte) pairs, indices strictly rising. A byte that is not listed
is unwritten and has no value (spec 70_reset_and_hazards R222). -/
abbrev Memory := List Host.Cell

/-- STATUS.PHASE: what the next engine step does (spec 10_state R31). -/
inductive Phase where
  | idle | tx | calc | unesc | hunt | type | eomStart | eomType | len | payload | cksum | end1 | end2
  deriving DecidableEq, Repr

/-- STATUS.ERR: how the last accepted command ended (spec 60_exceptions R193). -/
inductive ErrCode where
  | none | checksumMismatch | framingEnd | framingDesync | rxTimeout | illegalCmd | lenRange
  deriving DecidableEq, Repr

/-- What the RX source offers (spec 00_scope R16). -/
inductive RxEvent where
  | byte (b : Byte)
  | timeout
  deriving DecidableEq, Repr

/-- How wide a host access is (spec 20_memory R60, R61). -/
inductive AccessSize where
  | byte | half | word | wider
  deriving DecidableEq, Repr

/-- A host access at an address of the host's address space (spec 20_memory R60). The data of a
write that is no word is not looked at: such an access is refused (R61). -/
inductive HostAccess where
  | read (size : AccessSize) (addr : Nat)
  | write (size : AccessSize) (addr : Nat) (data : Word)
  deriving DecidableEq, Repr

/-- One turn of an agent (spec 00_scope R15, R18). -/
inductive Action where
  /-- The host performs an access. -/
  | host (access : HostAccess)
  /-- The engine takes a step. -/
  | engine
  /-- The RX source offers an event (R16). -/
  | rxOffer (event : RxEvent)
  /-- The TX sink becomes ready for one more byte (R17). -/
  | txAccept
  /-- The platform applies power-on reset (70_reset_and_hazards R220; log entry 17). -/
  | powerOn
  /-- A second host accesses the window: outside the spec (20_memory R78). -/
  | otherHost (access : HostAccess)
  /-- A second writer puts a byte on the link: outside the spec (20_memory R78). -/
  | otherWriter (b : Byte)
  deriving DecidableEq, Repr

/-- The whole state. The registers and flags are those of spec 10_state; the last five fields are
the environment (R45), which the model holds so that a step is a function of the state. -/
structure State where
  /-- BSC_BASE and LEN_STUFFED_ON_TX (00_scope R11, R13); no step changes them. -/
  cfg : Config
  /-- CMD (R24). -/
  cmd : Word
  /-- STATUS.BUSY (R25). -/
  busy : Bool
  /-- STATUS.DONE (R26). -/
  done : Bool
  /-- STATUS.ERR (R27). -/
  err : ErrCode
  /-- STATUS.EOM (R28). -/
  eom : Bool
  /-- STATUS.OVR (R29). -/
  ovr : Bool
  /-- STATUS.ESCP (R30). -/
  escp : Bool
  /-- STATUS.PHASE (R31). -/
  phase : Phase
  /-- RESULT, bits [7:0] (R33). -/
  result : Byte
  /-- OFFSET (R34). -/
  offset : Word
  /-- RXTYPE, bits [7:0] (R35). -/
  rxtype : Byte
  /-- RXLEN, bits [7:0] (R36). -/
  rxlen : Byte
  /-- RXCKSUM.RECV (R37). -/
  rxRecv : Byte
  /-- RXCKSUM.CALC (R37). -/
  rxCalc : Byte
  /-- SKIPCNT (R38). -/
  skipcnt : Word
  /-- TXCNT (R39). -/
  txcnt : Word
  /-- RXCNT (R40). -/
  rxcnt : Word
  /-- TXBUF (R42). -/
  txbuf : Memory
  /-- RXBUF (R43). -/
  rxbuf : Memory
  /-- TXSEQ (R44). -/
  txseq : List Byte
  /-- TXPOS (R44). -/
  txpos : Nat
  /-- IDX (R44). -/
  idx : Nat
  /-- T: the type PARSE has read so far (R44). -/
  hidT : Byte
  /-- L: the length PARSE has read (R44). -/
  hidL : Byte
  /-- The first end-marker byte, held from END1 to END2 (42_framer R160, R172; log entry 7). -/
  hidE1 : Byte
  /-- The turns still to come, oldest first; with none listed the engine moves (log entry 1). That the
  list is finite is the model's choice (log entry 29). -/
  agenda : List Action
  /-- The events offered and not yet consumed, oldest first (00_scope R16; log entry 3). R16 lets the
  source offer infinitely many in all; that one state holds finitely many is the model's choice
  (log entry 29: DESIGN CHOICE). -/
  rxPending : List RxEvent
  /-- How many bytes the TX sink accepts now (00_scope R17; log entry 4). -/
  txRoom : Nat
  /-- The bytes the TX sink has accepted, oldest first (00_scope R17). -/
  txOut : List Byte
  /-- The value of the host's most recent read (30_encoding R90 `RD`; log entry 5). -/
  rdata : Option Word
  deriving DecidableEq, Repr

/-- Why the machine stops with a fault. Errors of commands are no faults: they end in STATUS.ERR. -/
inductive Fault where
  /-- Raised by the acceptance of ESC, CKSUM, FRAME and CHUNK when TXBUF[0..N-1] holds an unwritten
  byte (spec 70_reset_and_hazards R231), and by CKSUM's own step in states no run reaches. Safe. -/
  | unwrittenOperand
  /-- Raised by a host read of an unwritten TXBUF or RXBUF byte (R222), and by PARSE's checksum over
  unwritten RXBUF bytes, which no run reaches (log entry 11). Safe. -/
  | unwrittenRead
  /-- Raised by a host access at an address outside the register window (20_memory R60, R70;
  log entry 14). Safe. -/
  | outsideWindow
  deriving DecidableEq, Repr

/-- Why a step has no meaning. -/
inductive Refusal where
  /-- Raised by exec for an instruction without a meaning; no instruction is without one. Safe. -/
  | notModelled (mnemonic : String)
  /-- Raised by a host access that is no aligned 32-bit word (spec 20_memory R61). Safe. -/
  | undefinedAccess
  /-- Raised by an access of a second host (20_memory R78, 60_exceptions R211). Safe. -/
  | secondHost
  /-- Raised by a second writer on the link (20_memory R78). Safe. -/
  | secondWriter
  deriving DecidableEq, Repr

/-- The state after power-on reset, for given parameters (spec 70_reset_and_hazards R221, R222): every
register 0, every buffer byte unwritten. The hidden fields and the environment are the model's
choice (log entries 1, 3, 4, 5 and 6: DESIGN CHOICE). -/
def State.resetWith (c : Config) : State :=
  { cfg := c
    cmd := 0
    busy := false, done := false, err := .none, eom := false, ovr := false, escp := false
    phase := .idle
    result := 0, offset := 0, rxtype := 0, rxlen := 0, rxRecv := 0, rxCalc := 0
    skipcnt := 0, txcnt := 0, rxcnt := 0
    txbuf := [], rxbuf := []
    txseq := [], txpos := 0, idx := 0, hidT := 0, hidL := 0, hidE1 := 0
    agenda := [], rxPending := [], txRoom := 0, txOut := [], rdata := none }

/-- The machine right after power-on reset, with the default parameters. -/
def State.reset : State := State.resetWith Config.default

end Sys2Proof.Machine
end

