-- ==== Sys2Proof/Machine/Memory.lean ====
section
/-! DEFINITION. The buffers TXBUF and RXBUF: reading, writing, the canonical form. -/

namespace Sys2Proof.Machine

/-- The byte at an index; none where nothing was written (spec 70_reset_and_hazards R222). -/
def Memory.read : Memory → Nat → Option Byte
  | [], _ => none
  | (k, v) :: m, a => if k = a then some v else Memory.read m a

/-- Write a byte at an index, which is written from then on (R222). -/
def Memory.write : Memory → Nat → Byte → Memory
  | [], a, b => [(a, b)]
  | (k, v) :: m, a, b =>
    if a < k then (a, b) :: (k, v) :: m
    else if a = k then (a, b) :: m
    else (k, v) :: Memory.write m a b

/-- The n bytes from index a on, if every one of them is written. -/
def Memory.range (m : Memory) (a : Nat) : Nat → Option (List Byte)
  | 0 => some []
  | n + 1 =>
    match Memory.read m a, Memory.range m (a + 1) n with
    | some b, some bs => some (b :: bs)
    | _, _ => none

/-- Indices strictly rising from lo on, and below BUF_BYTES. -/
def Memory.wfFrom : Nat → Memory → Bool
  | _, [] => true
  | lo, (k, _) :: m => decide (lo ≤ k) && decide (k < bufBytes) && Memory.wfFrom (k + 1) m

/-- The canonical form of a buffer: strictly rising indices below BUF_BYTES. An unlisted byte has no
value, so no entry can equal what an unlisted byte reads as. -/
def Memory.wf (m : Memory) : Bool := Memory.wfFrom 0 m

end Sys2Proof.Machine
end

