-- ==== Sys2Proof/Machine/Codec.lean ====
section
/-! DEFINITION. The pure functions of the block: escape, checksum, the frame encoder. -/

namespace Sys2Proof.Machine

/-- escape: every marker doubled, every other byte as it is (spec 40_codec R110). -/
def escape : List Byte → List Byte
  | [] => []
  | b :: bs => if b = marker then marker :: marker :: escape bs else b :: escape bs

/-- The sum of the bytes as an unbounded number (spec 00_scope R19). -/
def byteSum : List Byte → Nat
  | [] => 0
  | b :: bs => b.toNat + byteSum bs

/-- checksum: the two's complement of the sum, mod 256 (spec 41_checksum R130). -/
def checksum (bs : List Byte) : Byte := BitVec.ofNat 8 ((256 - byteSum bs % 256) % 256)

/-- le32: the four bytes of a word, lowest first (spec 00_scope R19, 20_memory R66). -/
def le32 (w : Word) : List Byte :=
  [w.extractLsb' 0 8, w.extractLsb' 8 8, w.extractLsb' 16 8, w.extractLsb' 24 8]

/-- esc_len: the length byte on the wire (spec 42_framer R140). -/
def escLen (stuffed : Bool) (l : Byte) : List Byte := if stuffed then escape [l] else [l]

/-- EncodeFrame (spec 42_framer R140); stuffed is LEN_STUFFED_ON_TX. -/
def encodeFrame (stuffed : Bool) (t l : Byte) (body : List Byte) : List Byte :=
  [marker, t] ++ escLen stuffed l ++ escape body ++ escape [checksum (t :: l :: body)]
    ++ [marker, endByte]

end Sys2Proof.Machine
end

