-- ==== Sys2Proof/Machine/Flags.lean ====
section
/-! DEFINITION. The words the host reads: STATUS from its fields, PARAM, the counters' increment. -/

namespace Sys2Proof.Machine

/-- The code of a phase (spec 10_state R31). -/
def Phase.code : Phase → BitVec 4
  | .idle => 0
  | .tx => 1
  | .calc => 2
  | .unesc => 3
  | .hunt => 4
  | .type => 5
  | .eomStart => 6
  | .eomType => 7
  | .len => 8
  | .payload => 9
  | .cksum => 10
  | .end1 => 11
  | .end2 => 12

/-- The code of an error (spec 60_exceptions R193). -/
def ErrCode.code : ErrCode → BitVec 4
  | .none => 0
  | .checksumMismatch => 1
  | .framingEnd => 2
  | .framingDesync => 3
  | .rxTimeout => 4
  | .illegalCmd => 5
  | .lenRange => 6

/-- STATUS as the host reads it (spec 10_state R25 to R31), reserved bits 0 (R23). -/
def State.statusWord (s : State) : Word :=
  0#16 ++ s.phase.code ++ 0#1 ++ BitVec.ofBool s.escp ++ BitVec.ofBool s.ovr ++ BitVec.ofBool s.eom
    ++ s.err.code ++ 0#2 ++ BitVec.ofBool s.done ++ BitVec.ofBool s.busy

/-- PARAM (spec 10_state R41): MARKER, END, CHUNK_MAX and LEN_STUFFED_ON_TX. -/
def paramWord (c : Config) : Word :=
  0#7 ++ BitVec.ofBool c.lenStuffedOnTx ++ BitVec.ofNat 8 chunkMax ++ endByte ++ marker

/-- RXCKSUM as the host reads it (spec 10_state R37). -/
def State.rxcksumWord (s : State) : Word := 0#16 ++ s.rxCalc ++ s.rxRecv

/-- zext_32 (spec 00_scope R19). -/
def zext32 (b : Byte) : Word := b.setWidth 32

/-- The counters' increment, which saturates at 0xFFFFFFFF (spec 10_state R38, R39, R40). -/
def satInc (w : Word) : Word := if w = 0xFFFFFFFF then w else w + 1

end Sys2Proof.Machine
end

