-- ==== Sys2Proof/Machine/Ops.lean ====
section
/-! DEFINITION. The operations commands share: acceptance, completion, raising an error, the
transmit step, the receive primitives, the two resets. -/

namespace Sys2Proof.Machine

/-- The writes every acceptance of a word makes (spec 30_encoding R87). -/
def State.accept (w : Word) (s : State) : State :=
  { s with
    cmd := w, done := false, err := .none, eom := false, escp := false
    skipcnt := 0, txcnt := 0, rxcnt := 0 }

/-- complete (spec 60_exceptions R191). -/
def State.complete (s : State) : State :=
  { s with busy := false, done := true, phase := .idle, escp := false }

/-- raise: the block's one way to take an error (spec 60_exceptions R192). The code goes to
STATUS.ERR, the command ends, nothing it wrote is rolled back. There is no saved context and no
return from it (R206). -/
def State.raise (e : ErrCode) (s : State) : State :=
  { s with err := e, busy := false, done := true, phase := .idle, escp := false }

/-- The acceptance of a word that is no command (spec 30_encoding R87, R88, 60_exceptions R198). -/
def State.rejectWord (w : Word) (s : State) : State := (s.accept w).raise .illegalCmd

/-- A legal command starts in a phase (spec 30_encoding R87). -/
def State.start (p : Phase) (s : State) : State := { s with busy := true, phase := p }

/-- A transmit command starts with its sequence fixed (spec 30_encoding R87, 20_memory R76). -/
def State.startTx (seq : List Byte) (s : State) : State :=
  { s with busy := true, phase := .tx, txseq := seq, txpos := 0 }

/-- A host write of CMD, OFFSET or TXBUF while BUSY = 1 is ignored and sets OVR (10_state R29). -/
def State.overrun (s : State) : State := { s with ovr := true }

/-- TxEmit, when the sink accepts the byte (spec 00_scope R19, 10_state R39). -/
def State.txEmit (b : Byte) (s : State) : State :=
  { s with txRoom := s.txRoom - 1, txOut := s.txOut ++ [b], txcnt := satInc s.txcnt }

/-- The transmit step (spec 40_codec R119). With a byte to emit and a sink that accepts none, the
engine has no step and the state stays (00_scope R17). -/
def State.txStep (s : State) : State :=
  match s.txseq[s.txpos]? with
  | some b =>
    if s.txRoom = 0 then s
    else if s.txpos + 1 = s.txseq.length then
      ({ s.txEmit b with txpos := s.txpos + 1 } : State).complete
    else { s.txEmit b with txpos := s.txpos + 1 }
  | none => if s.txpos = s.txseq.length then s.complete else s

/-- What a receive primitive answers in one engine step. -/
inductive Recv where
  /-- No event is offered: no step (spec 70_reset_and_hazards R230). -/
  | wait
  /-- A step was taken and the value needs another one (the first byte of a stuffed pair). -/
  | more (s : State)
  /-- The value, and the state after the step. -/
  | got (b : Byte) (s : State)
  /-- The primitive raises, from the state after its consumption. -/
  | failed (e : ErrCode) (s : State)
  deriving DecidableEq, Repr

/-- rx_raw (spec 40_codec R113). -/
def State.rxRaw (s : State) : Recv :=
  match s.rxPending with
  | [] => .wait
  | .timeout :: es => .failed .rxTimeout { s with rxPending := es }
  | .byte b :: es => .got b { s with rxPending := es, rxcnt := satInc s.rxcnt }

/-- What unesc makes of one consumed byte (spec 40_codec R114); ESCP says which of its two bytes
this is. -/
def State.unescByte (b : Byte) (s : State) : Recv :=
  if s.escp then
    if b = marker then .got marker { s with escp := false }
    else .failed .framingDesync { s with escp := false }
  else if b = marker then .more { s with escp := true }
  else .got b s

/-- One engine step of unesc (spec 40_codec R114). -/
def State.unesc (s : State) : Recv :=
  match s.rxRaw with
  | .wait => .wait
  | .more u => .more u
  | .got b u => u.unescByte b
  | .failed e u => .failed e u

/-- Go on after a receive primitive, in the same engine step (spec 42_framer R160): raise what it
raised (60_exceptions R192), or use its value. -/
def Recv.andThen (r : Recv) (s : State) (k : Byte → State → Host.Outcome State Fault Refusal) :
    Host.Outcome State Fault Refusal :=
  match r with
  | .wait => .next s
  | .more u => .next u
  | .got b u => k b u
  | .failed e u => .next (u.raise e)

/-- Soft reset (spec 70_reset_and_hazards R221, R223): every register 0, the buffers, the parameters
and the ports as they are. The hidden fields stay as they are too (log entry 18). -/
def State.softReset (s : State) : State :=
  { s with
    cmd := 0
    busy := false, done := false, err := .none, eom := false, ovr := false, escp := false
    phase := .idle
    result := 0, offset := 0, rxtype := 0, rxlen := 0, rxRecv := 0, rxCalc := 0
    skipcnt := 0, txcnt := 0, rxcnt := 0 }

/-- Power-on reset (spec 70_reset_and_hazards R220, R221, R222): as soft reset, and every buffer byte
unwritten. The ports are as they are (R224). -/
def State.powerOn (s : State) : State := { s.softReset with txbuf := [], rxbuf := [] }

end Sys2Proof.Machine
end

