-- ==== Sys2Proof/Machine/Operands.lean ====
section
/-! DEFINITION. The operands of the commands: bytes of TXBUF and RXBUF by count. -/

namespace Sys2Proof.Machine

/-- TXBUF[0..N-1], if every byte of it is written (spec 30_encoding R84, 70_reset_and_hazards R231). -/
def State.txBytes (s : State) (n : Byte) : Option (List Byte) := s.txbuf.range 0 n.toNat

/-- RXBUF[0..l-1], if every byte of it is written (spec 42_framer R170). -/
def State.rxBytes (s : State) (l : Byte) : Option (List Byte) := s.rxbuf.range 0 l.toNat

/-- Use the operand TXBUF[0..N-1], or fault where a byte of it is unwritten (R231). -/
def State.withOperand (s : State) (n : Byte)
    (k : List Byte → Host.Outcome State Fault Refusal) : Host.Outcome State Fault Refusal :=
  match s.txBytes n with
  | some bs => k bs
  | none => .fault .unwrittenOperand

/-- The engine's turn in a transmit command (spec 40_codec R119). In another phase the command has no
step (log entry 10: no run reaches it). -/
def State.txTurn (s : State) : State := if s.phase = .tx then s.txStep else s

end Sys2Proof.Machine
end

