-- ==== Sys2Proof/Machine/Checksum.lean ====
section
/-! DEFINITION. The checksum command, CKSUM (spec 41_checksum). -/

namespace Sys2Proof.Machine

/-- CKSUM (spec 41_checksum R131): acceptance, then one engine step in phase CALC. -/
def execCksum (ty len : Byte) (s : State) : Host.Outcome State Fault Refusal :=
  if s.busy then
    if s.phase = .calc then
      s.withOperand len fun bs => .next ({ s with result := checksum bs } : State).complete
    else .next s
  else s.withOperand len fun _ => .next ((s.accept (encode (.cksum ty len))).start .calc)

end Sys2Proof.Machine
end

