-- ==== Sys2Proof/Machine/Framer.lean ====
section
/-! DEFINITION. The packet framer's commands, FRAME, CHUNK and PARSE (spec 42_framer). -/

namespace Sys2Proof.Machine

/-- FRAME (spec 42_framer R141). -/
def execFrame (ty len : Byte) (s : State) : Host.Outcome State Fault Refusal :=
  if s.busy then .next s.txTurn
  else s.withOperand len fun bs =>
    .next ((s.accept (encode (.frame ty len))).startTx (encodeFrame s.cfg.lenStuffedOnTx ty len bs))

/-- CHUNK (spec 42_framer R150); more than CHUNK_MAX data bytes raise LEN_RANGE at acceptance
(60_exceptions R199), before any operand byte is read. -/
def execChunk (ty len : Byte) (s : State) : Host.Outcome State Fault Refusal :=
  if s.busy then .next s.txTurn
  else if chunkMax < len.toNat then
    .next ((s.accept (encode (.chunk ty len))).raise .lenRange)
  else s.withOperand len fun bs =>
    .next ((s.accept (encode (.chunk ty len))).startTx
      (encodeFrame s.cfg.lenStuffedOnTx ty (len + 4) (le32 s.offset ++ bs)))

/-- PARSE's HUNT (spec 42_framer R162, R163). -/
def parseHunt (b : Byte) (s : State) : State :=
  if b = marker then { s with phase := .type } else { s with skipcnt := satInc s.skipcnt }

/-- PARSE's TYPE (spec 42_framer R164, R166): END takes the end-of-message path. -/
def parseType (b : Byte) (s : State) : State :=
  if b = endByte then { s with hidT := b, eom := true, phase := .eomStart }
  else { s with hidT := b, rxtype := b, phase := .len }

/-- PARSE's EOM_TYPE (spec 42_framer R166, R167): the byte is the type whatever its value. -/
def parseEomType (b : Byte) (s : State) : State := { s with hidT := b, rxtype := b, phase := .len }

/-- PARSE's LEN, once the byte is unescaped (spec 42_framer R160, R168). -/
def parseLen (b : Byte) (s : State) : State :=
  { s with hidL := b, rxlen := b, idx := 0, phase := if b = 0 then .cksum else .payload }

/-- PARSE's PAYLOAD, once the byte is unescaped (spec 42_framer R169). -/
def parsePayload (b : Byte) (s : State) : State :=
  { s with
    rxbuf := s.rxbuf.write s.idx b, idx := s.idx + 1
    phase := if s.idx + 1 < s.hidL.toNat then .payload else .cksum }

/-- PARSE's CKSUM, once the byte is unescaped (spec 42_framer R170, R171). -/
def parseCksum (c : Byte) (s : State) : Host.Outcome State Fault Refusal :=
  match s.rxBytes s.hidL with
  | none => .fault .unwrittenRead
  | some p =>
    let computed := checksum (s.hidT :: s.hidL :: p)
    let u : State := { s with rxRecv := c, rxCalc := computed }
    if c ≠ computed then .next (u.raise .checksumMismatch) else .next { u with phase := .end1 }

/-- PARSE's END2 (spec 42_framer R172, R173): both bytes are compared once both are read. -/
def parseEnd2 (b : Byte) (s : State) : State :=
  if s.hidE1 ≠ marker ∨ b ≠ endByte then s.raise .framingEnd else s.complete

/-- One engine step of PARSE (spec 42_framer R160). -/
def State.parseTurn (s : State) : Host.Outcome State Fault Refusal :=
  match s.phase with
  | .hunt => s.rxRaw.andThen s fun b u => .next (parseHunt b u)
  | .type => s.rxRaw.andThen s fun b u => .next (parseType b u)
  | .eomStart => s.rxRaw.andThen s fun _ u => .next { u with phase := .eomType }
  | .eomType => s.rxRaw.andThen s fun b u => .next (parseEomType b u)
  | .len => s.unesc.andThen s fun b u => .next (parseLen b u)
  | .payload => s.unesc.andThen s fun b u => .next (parsePayload b u)
  | .cksum => s.unesc.andThen s fun b u => parseCksum b u
  | .end1 => s.rxRaw.andThen s fun b u => .next { u with hidE1 := b, phase := .end2 }
  | .end2 => s.rxRaw.andThen s fun b u => .next (parseEnd2 b u)
  -- no phase of PARSE: it has no step (log entry 10: no run reaches it)
  | .idle | .tx | .calc | .unesc => .next s

/-- PARSE (spec 42_framer R160). -/
def execParse (ty len : Byte) (s : State) : Host.Outcome State Fault Refusal :=
  if s.busy then s.parseTurn
  else .next ((s.accept (encode (.parse ty len))).start .hunt)

end Sys2Proof.Machine
end

