-- ==== Sys2Proof/Machine/Stuffing.lean ====
section
/-! DEFINITION. The byte-stuffing codec's commands, ESC and UNESC (spec 40_codec).
A meaning is one step of its command: with BUSY = 0 its acceptance (30_encoding R87), with BUSY = 1
its next engine step (00_scope R18; log entry 9). -/

namespace Sys2Proof.Machine

/-- ESC (spec 40_codec R112, R119). -/
def execEsc (ty len : Byte) (s : State) : Host.Outcome State Fault Refusal :=
  if s.busy then .next s.txTurn
  else s.withOperand len fun bs =>
    .next ((s.accept (encode (.esc ty len))).startTx (escape bs))

/-- UNESC (spec 40_codec R116). -/
def execUnesc (ty len : Byte) (s : State) : Host.Outcome State Fault Refusal :=
  if s.busy then
    if s.phase = .unesc then
      s.unesc.andThen s fun b u => .next ({ u with result := b } : State).complete
    else .next s
  else .next ((s.accept (encode (.unesc ty len))).start .unesc)

end Sys2Proof.Machine
end

