-- ==== Sys2Proof/Machine/Dispatch.lean ====
section
/-! DEFINITION. One arm per command: the step of a command, its acceptance or its next engine step. -/

namespace Sys2Proof.Machine

def exec (i : Instr) (s : State) : Host.Outcome State Fault Refusal :=
  match i with
  | .esc ty len => Sys2Proof.Machine.execEsc ty len s
  | .unesc ty len => Sys2Proof.Machine.execUnesc ty len s
  | .cksum ty len => Sys2Proof.Machine.execCksum ty len s
  | .frame ty len => Sys2Proof.Machine.execFrame ty len s
  | .chunk ty len => Sys2Proof.Machine.execChunk ty len s
  | .parse ty len => Sys2Proof.Machine.execParse ty len s

end Sys2Proof.Machine
end

