-- ==== Sys2Proof/Machine/Window.lean ====
section
/-! DEFINITION. The register window: which register an access reaches, what a read returns, what a
write does (CMD apart, whose write is an acceptance). -/

namespace Sys2Proof.Machine

/-- The registers of the window (spec 10_state R22). -/
inductive Reg where
  | cmd | status | ctrl | result | offset | rxtype | rxlen | rxcksum | skipcnt | txcnt | rxcnt | param
  /-- A reserved offset (R23). -/
  | reserved
  | txbuf (i : Nat)
  | rxbuf (i : Nat)
  deriving DecidableEq, Repr

/-- The registers at the offsets 0x000, 0x004, ... 0x02C (spec 10_state R22). -/
def controlRegs : List Reg :=
  [.cmd, .status, .ctrl, .result, .offset, .rxtype, .rxlen, .rxcksum, .skipcnt, .txcnt, .rxcnt,
    .param]

/-- The register at an aligned offset inside the window (spec 10_state R22): the second KiB is TXBUF,
the third RXBUF, one byte a word; the rest holds the control registers and reserved offsets. -/
def Reg.ofOffset (off : Nat) : Reg :=
  if off / 0x400 = 1 then .txbuf (off % 0x400 / 4)
  else if off / 0x400 = 2 then .rxbuf (off % 0x400 / 4)
  else (controlRegs[off / 4]?).getD .reserved

/-- What an access reaches. -/
inductive Reached where
  /-- A register, by a defined access (spec 20_memory R60). -/
  | reg (r : Reg)
  /-- The address lies outside the window (R60, R70). -/
  | outside
  /-- The access is no aligned 32-bit word (R61). -/
  | undefined
  deriving DecidableEq, Repr

/-- What an access of a size at an address reaches (spec 20_memory R60, R61). The window is looked at
first: an access elsewhere is not the block's at all (log entry 15). -/
def windowReach (c : Config) (size : AccessSize) (addr : Nat) : Reached :=
  if addr < c.bscBase ∨ c.bscBase + windowBytes ≤ addr then .outside
  else if size ≠ .word ∨ (addr - c.bscBase) % 4 ≠ 0 then .undefined
  else .reg (Reg.ofOffset (addr - c.bscBase))

/-- What a host read of a register returns; none for an unwritten buffer byte
(spec 10_state R22 to R43, 70_reset_and_hazards R222). -/
def State.readReg (s : State) : Reg → Option Word
  | .cmd => some s.cmd
  | .status => some s.statusWord
  | .ctrl => some 0
  | .result => some (zext32 s.result)
  | .offset => some s.offset
  | .rxtype => some (zext32 s.rxtype)
  | .rxlen => some (zext32 s.rxlen)
  | .rxcksum => some s.rxcksumWord
  | .skipcnt => some s.skipcnt
  | .txcnt => some s.txcnt
  | .rxcnt => some s.rxcnt
  | .param => some (paramWord s.cfg)
  | .reserved => some 0
  | .txbuf i => (s.txbuf.read i).map zext32
  | .rxbuf i => (s.rxbuf.read i).map zext32

/-- A host write of STATUS: bit 9 written 1 clears OVR, and no other bit does anything
(spec 10_state R29, R23). -/
def State.writeStatus (data : Word) (s : State) : State :=
  if data.getLsbD 9 then { s with ovr := false } else s

/-- A host write of CTRL: bit 0 written 1 is a soft reset (spec 10_state R32). -/
def State.writeCtrl (data : Word) (s : State) : State :=
  if data.getLsbD 0 then s.softReset else s

/-- A host write of OFFSET (spec 10_state R34, R29). -/
def State.writeOffset (data : Word) (s : State) : State :=
  if s.busy then s.overrun else { s with offset := data }

/-- A host write of TXBUF[i] (spec 10_state R42, R29). -/
def State.writeTxbuf (i : Nat) (data : Word) (s : State) : State :=
  if s.busy then s.overrun else { s with txbuf := s.txbuf.write i (data.setWidth 8) }

/-- A host write of a register other than CMD (spec 10_state R22, R23). A write of CMD is an
acceptance and is not made here. -/
def State.writeReg (s : State) (r : Reg) (data : Word) : State :=
  match r with
  | .status => s.writeStatus data
  | .ctrl => s.writeCtrl data
  | .offset => s.writeOffset data
  | .txbuf i => s.writeTxbuf i data
  | .cmd | .result | .rxtype | .rxlen | .rxcksum | .skipcnt | .txcnt | .rxcnt | .param | .reserved
  | .rxbuf _ => s

/-- A host read (spec 20_memory R60, R61, R64): it changes nothing of the block. -/
def State.hostRead (s : State) (size : AccessSize) (addr : Nat) :
    Host.Outcome State Fault Refusal :=
  match windowReach s.cfg size addr with
  | .outside => .fault .outsideWindow
  | .undefined => .refused .undefinedAccess
  | .reg r =>
    match s.readReg r with
    | some v => .next { s with rdata := some v }
    | none => .fault .unwrittenRead

end Sys2Proof.Machine
end

