-- ==== Sys2Proof/Machine/Turns.lean ====
section
/-! DEFINITION. The turns of the agents (spec 00_scope R15, R18). -/

namespace Sys2Proof.Machine

/-- A host write of CMD (spec 10_state R24): with BUSY = 0 an acceptance, of the command the word
stands for or of an illegal word (30_encoding R87); with BUSY = 1 ignored, and OVR is set (R29). -/
def State.writeCmd (s : State) (w : Word) : Host.Outcome State Fault Refusal :=
  if s.busy then .next s.overrun
  else
    match decode w with
    | .ok i => exec i s
    | .error _ => .next (s.rejectWord w)

/-- A host write (spec 20_memory R60, R61, R65). -/
def State.hostWrite (s : State) (size : AccessSize) (addr : Nat) (data : Word) :
    Host.Outcome State Fault Refusal :=
  match windowReach s.cfg size addr with
  | .outside => .fault .outsideWindow
  | .undefined => .refused .undefinedAccess
  | .reg .cmd => s.writeCmd data
  | .reg r => .next (s.writeReg r data)

/-- The engine's turn: the next step of the command CMD holds while BUSY = 1; otherwise the engine
accepts nothing and the state stays (spec 00_scope R18, 10_state R31). -/
def State.engineTurn (s : State) : Host.Outcome State Fault Refusal :=
  if s.busy then
    match decode s.cmd with
    | .ok i => exec i s
    | .error _ => .next s
  else .next s

/-- One turn of one agent (spec 00_scope R15, R18). -/
def State.turn (s : State) : Action → Host.Outcome State Fault Refusal
  | .host (.read size addr) => s.hostRead size addr
  | .host (.write size addr data) => s.hostWrite size addr data
  | .engine => s.engineTurn
  | .rxOffer e => .next { s with rxPending := s.rxPending ++ [e] }
  | .txAccept => .next { s with txRoom := s.txRoom + 1 }
  | .powerOn => .next s.powerOn
  | .otherHost _ => .refused .secondHost
  | .otherWriter _ => .refused .secondWriter

/-- The next turn of the agenda; with none listed, the engine's (log entry 1). -/
def State.nextTurn (s : State) : Host.Outcome State Fault Refusal :=
  match s.agenda with
  | [] => s.engineTurn
  | a :: rest => ({ s with agenda := rest } : State).turn a

/-- The host's write of a word to CMD, as a turn of the agenda (spec 10_state R22, R24). -/
def State.cmdWriteTurn (s : State) (w : Word) : Action := .host (.write .word s.cfg.bscBase w)

/-- s about to accept the word w: the host's write of CMD stands first in the agenda, and the block is
idle, as an acceptance needs (spec 10_state R24; log entries 2 and 21). -/
def State.withCmdWrite (s : State) (w : Word) : State :=
  { s with busy := false, phase := .idle, agenda := s.cmdWriteTurn w :: s.agenda }

end Sys2Proof.Machine
end

