-- ==== Sys2Proof/Machine/Step.lean ====
section
/-! DEFINITION. One step of the machine, and the state whose next step runs a given instruction. -/

namespace Sys2Proof.Machine

/-- One atomic step of the run: the next turn of the agenda (spec 00_scope R18). -/
def step (s : State) : Host.Outcome State Fault Refusal := s.nextTurn

/-- s with an instruction of nbits bits stored where the next step takes it from: the host's write of
CMD (log entry 2). -/
def State.withFetchWord (s : State) (nbits w : Nat) : State :=
  s.withCmdWrite (BitVec.ofNat 32 (w % 2 ^ nbits))

end Sys2Proof.Machine
end

