-- ==== Sys2Proof/Machine/HostScript.lean ====
section
/-! DEFINITION. The host scripts of spec 30_encoding R90. They are notation for what a host does, not
part of the block: nothing of them stands in State. -/

namespace Sys2Proof.Machine

/-- A condition on the value of the most recent `RD` (spec 30_encoding R90): its bits under a mask are,
or are not, a given value. -/
structure Condition where
  mask : Word
  value : Word
  equal : Bool
  deriving DecidableEq, Repr

/-- Whether a condition holds of a value. -/
def Condition.holds (c : Condition) (v : Word) : Bool := decide (v &&& c.mask = c.value) == c.equal

/-- A statement of a host script, pseudo-statements expanded; a register is named by its offset and a
label by the place of the statement it names. -/
inductive Stmt where
  /-- `WR <reg>, <value>`. -/
  | wr (off : Nat) (value : Word)
  /-- `RD <reg>`. -/
  | rd (off : Nat)
  /-- `if <condition> goto <label>`. -/
  | gotoIf (c : Condition) (target : Nat)
  deriving DecidableEq, Repr

/-- The host access a statement makes; a goto makes none. -/
def Stmt.action (c : Config) : Stmt → Option Action
  | .wr off v => some (.host (.write .word (c.bscBase + off) v))
  | .rd off => some (.host (.read .word (c.bscBase + off)))
  | .gotoIf _ _ => none

/-- Where the script goes on after the statement at place pc. A goto before any `RD` has no value to
test and falls through. -/
def Stmt.follow (s : State) (pc : Nat) : Stmt → Nat
  | .wr _ _ => pc + 1
  | .rd _ => pc + 1
  | .gotoIf c target =>
    match s.rdata with
    | some v => if c.holds v then target else pc + 1
    | none => pc + 1

/-- What the host does next: the place it goes to, and the access it makes. -/
def scriptTurn (script : List Stmt) (pc : Nat) (s : State) : Nat × Option Action :=
  match script[pc]? with
  | some st => (st.follow s pc, st.action s.cfg)
  | none => (pc, none)

/-- `CMD <command>`. -/
def scriptCmd (i : Instr) : List Stmt := [.wr 0x000 (encode i)]

/-- `WAIT`, standing at place pc: read STATUS until bit 0 is 0. -/
def scriptWait (pc : Nat) : List Stmt :=
  [.rd 0x004, .gotoIf { mask := 1, value := 1, equal := true } pc]

/-- `LOAD`, of bytes from TXBUF[i] on. -/
def scriptLoad (i : Nat) : List Byte → List Stmt
  | [] => []
  | b :: bs => .wr (0x400 + 4 * i) (zext32 b) :: scriptLoad (i + 1) bs

/-- `SEND T, <bytes>`, standing at place pc. -/
def scriptSend (pc : Nat) (t : Byte) (bs : List Byte) : List Stmt :=
  scriptLoad 0 bs ++ scriptCmd (asmFrame t (BitVec.ofNat 8 bs.length))
    ++ scriptWait (pc + bs.length + 1)

/-- `RECV`, standing at place pc. -/
def scriptRecv (pc : Nat) : List Stmt := scriptCmd asmParse ++ scriptWait (pc + 1)

end Sys2Proof.Machine
end

