-- ==== Sys2Proof/Safety.lean ====
section
/-! DEFINITION. What counts as a sound state and as a safe run, in the terms statements use. -/

namespace Sys2Proof.Machine

/-- The phases a command passes through (spec 10_state R31). -/
def phasesOf : Instr → List Phase
  | .esc _ _ => [.tx]
  | .unesc _ _ => [.unesc]
  | .cksum _ _ => [.calc]
  | .frame _ _ => [.tx]
  | .chunk _ _ => [.tx]
  | .parse _ _ =>
    [.hunt, .type, .eomStart, .eomType, .len, .payload, .cksum, .end1, .end2]

/-- The sound states: what the rules of the spec say of the registers together. -/
structure Inv (s : State) : Prop where
  /-- The buffers keep their canonical form. -/
  txbufWf : s.txbuf.wf = true
  rxbufWf : s.rxbuf.wf = true
  /-- BSC_BASE is 4 KiB aligned (spec 00_scope R13). -/
  baseAligned : s.cfg.bscBase % windowBytes = 0
  /-- PHASE is IDLE while no command executes (10_state R31). -/
  idlePhase : s.busy = false → s.phase = .idle
  /-- While BUSY = 1, CMD holds the executing command and PHASE is one of its phases (R24, R31). -/
  running : s.busy = true → ∃ i, decode s.cmd = .ok i ∧ s.phase ∈ phasesOf i
  /-- While a command executes DONE = 0 and ERR = 0 (R26, R27). -/
  notDone : s.busy = true → s.done = false ∧ s.err = .none
  /-- An error code stands only with DONE = 1 (R26, 60_exceptions R192). -/
  errDone : s.err ≠ .none → s.done = true
  /-- ESCP stands only inside an escaped field (R30). -/
  escpPhase : s.escp = true → s.phase ∈ [.unesc, .len, .payload, .cksum]
  /-- EOM is PARSE's (R28). -/
  eomParse : s.eom = true → ∃ ty len, decode s.cmd = .ok (.parse ty len)
  /-- A transmit command: TXPOS counts inside TXSEQ, TXCNT equals it (R39, R44; 42_framer R143). -/
  sent : s.phase = .tx →
    s.txpos ≤ s.txseq.length ∧ s.txseq.length ≤ 517 ∧ s.txcnt.toNat = s.txpos
  /-- The operand of an executing CKSUM is written (70_reset_and_hazards R231). -/
  calcOperand : s.phase = .calc →
    ∃ ty len, decode s.cmd = .ok (.cksum ty len) ∧ (s.txBytes len).isSome = true
  /-- T and L equal RXTYPE and RXLEN once written (R44). -/
  typeWritten : s.phase ∈ [.len, .payload, .cksum, .end1, .end2] → s.hidT = s.rxtype
  lenWritten : s.phase ∈ [.payload, .cksum, .end1, .end2] → s.hidL = s.rxlen
  /-- In PAYLOAD, IDX is inside the frame and the bytes before it are written (R43, R44). -/
  payloadIdx : s.phase = .payload →
    s.idx < s.hidL.toNat ∧ (s.rxbuf.range 0 s.idx).isSome = true
  /-- In CKSUM the whole payload is written (42_framer R169). -/
  payloadWritten : s.phase = .cksum → (s.rxBytes s.hidL).isSome = true
  /-- Past CKSUM the checksum matched (42_framer R171). -/
  checksumMatched : s.phase ∈ [.end1, .end2] → s.rxRecv = s.rxCalc
  /-- Only a transmit command emits (R39). -/
  noneSent : s.busy = true → s.phase ≠ .tx → s.txcnt = 0
  /-- Only a receive command consumes, and only PARSE skips (R38, R40). -/
  noneReceived : s.phase = .tx ∨ s.phase = .calc → s.rxcnt = 0
  noneSkipped : s.phase = .tx ∨ s.phase = .calc ∨ s.phase = .unesc → s.skipcnt = 0

/-- A step stops: it ends in a fault or a refusal. -/
def stops (o : Host.Outcome State Fault Refusal) : Prop := ∀ t, o ≠ .next t

/-- A buffer holds the bytes bs from index 0 on (spec 10_state R42, R43): each of them is written and
reads as the byte of bs. -/
def holds (m : Memory) (bs : List Byte) : Prop := ∀ k, k < bs.length → m.read k = bs[k]?

/-- The last wire byte b of an escaped byte arrives and stands for v (spec 40_codec R114): b is no
marker and stands for itself, or it is the second marker of a pair. -/
def arrives (s : State) (b v : Byte) : Prop :=
  (s.escp = false ∧ b ≠ marker ∧ v = b) ∨ (s.escp = true ∧ b = marker ∧ v = marker)

/-- A command is receiving: UNESC in its phase, or PARSE in one of its phases (spec 10_state R31). -/
def receiving (i : Instr) (p : Phase) : Prop :=
  (∃ ty len, i = .unesc ty len ∧ p = .unesc) ∨
  (∃ ty len, i = .parse ty len ∧ p ∈ phasesOf i)

/-- A command is inside an escaped field (spec 10_state R30). -/
def receivingEscaped (i : Instr) (p : Phase) : Prop :=
  receiving i p ∧ p ∈ [Phase.unesc, .len, .payload, .cksum]

/-- The transmit sequence of a command over its operand bytes (spec 30_encoding R87); the other
commands have none. -/
def transmits (c : Config) (off : Word) (bs : List Byte) : Instr → Option (List Byte)
  | .esc _ _ => some (escape bs)
  | .frame ty len => some (encodeFrame c.lenStuffedOnTx ty len bs)
  | .chunk ty len => some (encodeFrame c.lenStuffedOnTx ty (len + 4) (le32 off ++ bs))
  | .unesc _ _ => none
  | .cksum _ _ => none
  | .parse _ _ => none

/-- The bytes of a sequence as the RX source offers them (spec 00_scope R16). -/
def offered (bs : List Byte) : List RxEvent := bs.map .byte

/-- A count as a 32-bit counter holds it: it stops at 0xFFFFFFFF (spec 10_state R38, R39, R40). -/
def saturated (n : Nat) : Word := BitVec.ofNat 32 (min n 0xFFFFFFFF)

/-- The first n steps from s. -/
def runFor : Nat → State → Host.Outcome State Fault Refusal
  | 0, s => .next s
  | n + 1, s =>
    match step s with
    | .next t => runFor n t
    | .fault f => .fault f
    | .refused r => .refused r

/-- A state without the engine's hidden fields (spec 10_state R44): what the host and the ports can tell
apart, now or later, is in the rest. -/
def State.visible (s : State) : State :=
  { s with txseq := [], txpos := 0, idx := 0, hidT := 0, hidL := 0, hidE1 := 0 }

/-- An outcome without the hidden fields of its next state. -/
def visibleOutcome : Host.Outcome State Fault Refusal → Host.Outcome State Fault Refusal
  | .next s => .next s.visible
  | .fault f => .fault f
  | .refused r => .refused r

/-- A safe run of n steps: none of them stops. -/
def SafeFor (n : Nat) (s : State) : Prop := ∃ t, runFor n s = .next t

end Sys2Proof.Machine
end

