-- ==== Sys2Proof/Certificates/Slice0/Obligations.lean ====
section
/-! DEFINITION. What is claimed of the model, for the provers. Each statement names the rules of the
spec it rests on. -/

open Sys2Proof Sys2Proof.Machine

/-! ## Encoding -/

/-- The decoder and the encoder are inverse on the commands and on the words that decode (spec
30_encoding R80, R81, R89): no bit of a command word is dropped. -/
def Obligations.DecodeInvertsEncode : Prop :=
  (∀ i : Instr, decode (encode i) = .ok i) ∧ (∀ (w : Word) (i : Instr), decode w = .ok i → encode i = w)

/-- The words that stand for no command are those of R82 and R88: a reserved OP, or a nonzero
reserved field. -/
def Obligations.IllegalWordsAreTheReservedOnes : Prop :=
  ∀ w : Word, (∃ e, decode w = .error e) ↔
    (w.toNat % 16 = 0 ∨ 7 ≤ w.toNat % 16 ∨ w.toNat / 16 % 16 ≠ 0 ∨ w.toNat / 2 ^ 24 ≠ 0)

/-- The words of the assembler's commands (spec 30_encoding R89), with its examples. -/
def Obligations.AssemblerWords : Prop :=
  (∀ n : Byte, (encode (asmEsc n)).toNat = 0x00000001 + n.toNat * 2 ^ 16) ∧
  (encode asmUnesc).toNat = 0x00000002 ∧
  (∀ n : Byte, (encode (asmCksum n)).toNat = 0x00000003 + n.toNat * 2 ^ 16) ∧
  (∀ t n : Byte, (encode (asmFrame t n)).toNat = 0x00000004 + t.toNat * 2 ^ 8 + n.toNat * 2 ^ 16) ∧
  (∀ t n : Byte, (encode (asmChunk t n)).toNat = 0x00000005 + t.toNat * 2 ^ 8 + n.toNat * 2 ^ 16) ∧
  (encode asmParse).toNat = 0x00000006 ∧
  encode (asmFrame 0xFE 2) = 0x0002FE04 ∧ encode (asmChunk 0x24 10) = 0x000A2405 ∧
  encode asmParse = 0x00000006

/-- Command words of the spec's tables (30_encoding R89, 95_test_vectors 2.1 to 2.7) decode to the
commands they stand for. -/
def Obligations.TableWordsDecode : Prop :=
  decode 0x00030001 = .ok (.esc 0 3) ∧ decode 0x0000FF02 = .ok (.unesc 0xFF 0) ∧
  decode 0x00030003 = .ok (.cksum 0 3) ∧ decode 0x0002FE04 = .ok (.frame 0xFE 2) ∧
  decode 0x000A2405 = .ok (.chunk 0x24 10) ∧ decode 0x00FF5506 = .ok (.parse 0x55 0xFF) ∧
  decode 0x00000007 = .error .reservedOp ∧ decode 0x00000014 = .error .reservedField ∧
  decode 0x01000006 = .error .reservedField

/-! ## The step and the acceptance of words -/

/-- A step runs the decoded command: at a host write of CMD with BUSY = 0 it is exec of the command the
word stands for, and at the engine's turn with BUSY = 1 it is exec of the command CMD holds; around
exec the step only takes the turn off the agenda. That turns stand in an agenda, that an empty one is
the engine's turn, and where a fetched word stands are the model's choice (log entries 1, 2, 21). -/
def Obligations.StepRunsDecodedCommand : Prop :=
  ∀ (s : State) (i : Instr) (w : Word) (rest : List Action),
    (s.agenda = .host (.write .word s.cfg.bscBase w) :: rest → s.busy = false → decode w = .ok i →
      step s = exec i { s with agenda := rest }) ∧
    (s.agenda = .engine :: rest → s.busy = true → decode s.cmd = .ok i →
      step s = exec i { s with agenda := rest }) ∧
    (s.agenda = [] → s.busy = true → decode s.cmd = .ok i → step s = exec i s) ∧
    (decode w = .ok i →
      step (s.withFetchWord 32 w.toNat) = exec i { s with busy := false, phase := .idle })

/-- ILLEGAL_CMD (spec 60_exceptions R192, R198, 30_encoding R87, R88): the acceptance of a word with a
reserved OP or a nonzero reserved field ends at once, and changes nothing but what acceptance writes.
That acceptance leaves the hidden fields, T among them, is the model's reading (log entry 27); that the
host's write stands at the head of an agenda is the model's choice (log entry 1). -/
def Obligations.IllegalWordRaisesIllegalCmd : Prop :=
  ∀ (s : State) (w : Word) (rest : List Action),
    s.agenda = .host (.write .word s.cfg.bscBase w) :: rest → s.busy = false →
    (w.toNat % 16 = 0 ∨ 7 ≤ w.toNat % 16 ∨ w.toNat / 16 % 16 ≠ 0 ∨ w.toNat / 2 ^ 24 ≠ 0) →
    step s = .next { s with
      agenda := rest
      cmd := w, busy := false, done := true, err := .illegalCmd, eom := false, escp := false
      phase := .idle, skipcnt := 0, txcnt := 0, rxcnt := 0 }

/-- ESC at acceptance (spec 40_codec R112, 30_encoding R87): it completes its acceptance with TXSEQ
fixed; every other field, every buffer byte and the ports are unchanged. That acceptance leaves the
hidden fields it does not name is the model's reading (log entry 27). -/
def Obligations.EscAccepted : Prop :=
  ∀ (s : State) (ty len : Byte) (bs : List Byte),
    s.busy = false → bs.length = len.toNat → holds s.txbuf bs →
    exec (.esc ty len) s = .next { s with
      cmd := encode (.esc ty len), busy := true, done := false, err := .none, eom := false
      escp := false, phase := .tx, skipcnt := 0, txcnt := 0, rxcnt := 0
      txseq := escape bs, txpos := 0 }

/-- FRAME at acceptance (spec 42_framer R141, 30_encoding R87); the other hidden fields are left (log
entry 27). -/
def Obligations.FrameAccepted : Prop :=
  ∀ (s : State) (ty len : Byte) (bs : List Byte),
    s.busy = false → bs.length = len.toNat → holds s.txbuf bs →
    exec (.frame ty len) s = .next { s with
      cmd := encode (.frame ty len), busy := true, done := false, err := .none, eom := false
      escp := false, phase := .tx, skipcnt := 0, txcnt := 0, rxcnt := 0
      txseq := [0x10, ty] ++ (if s.cfg.lenStuffedOnTx then escape [len] else [len]) ++ escape bs
        ++ escape [checksum ([ty, len] ++ bs)] ++ [0x10, 0x03]
      txpos := 0 }

/-- CHUNK at acceptance with at most 250 data bytes (spec 42_framer R150, 30_encoding R87): the frame's
length is N + 4 and its body is OFFSET, lowest byte first, and then the data; OFFSET is unchanged, and
the other hidden fields are left (log entry 27). -/
def Obligations.ChunkAccepted : Prop :=
  ∀ (s : State) (ty len : Byte) (bs : List Byte),
    s.busy = false → len.toNat ≤ 250 → bs.length = len.toNat → holds s.txbuf bs →
    exec (.chunk ty len) s = .next { s with
      cmd := encode (.chunk ty len), busy := true, done := false, err := .none, eom := false
      escp := false, phase := .tx, skipcnt := 0, txcnt := 0, rxcnt := 0
      txseq := encodeFrame s.cfg.lenStuffedOnTx ty (BitVec.ofNat 8 (len.toNat + 4))
        ([s.offset.extractLsb' 0 8, s.offset.extractLsb' 8 8, s.offset.extractLsb' 16 8,
          s.offset.extractLsb' 24 8] ++ bs)
      txpos := 0 }

/-- LEN_RANGE (spec 60_exceptions R192, R199, 30_encoding R87): CHUNK with more than 250 data bytes ends
at its acceptance. That acceptance leaves the hidden fields is the model's reading (log entry 27), and
so is that it reads no operand and raises whatever TXBUF holds (log entry 8). -/
def Obligations.ChunkOverLimitRaisesLenRange : Prop :=
  ∀ (s : State) (ty len : Byte), s.busy = false → 250 < len.toNat →
    exec (.chunk ty len) s = .next { s with
      cmd := encode (.chunk ty len), busy := false, done := true, err := .lenRange, eom := false
      escp := false, phase := .idle, skipcnt := 0, txcnt := 0, rxcnt := 0 }

/-- CKSUM at acceptance, and its one engine step (spec 41_checksum R131); the hidden fields are left
(log entry 27). -/
def Obligations.CksumAcceptedThenComputes : Prop :=
  ∀ (s : State) (ty len : Byte) (bs : List Byte), bs.length = len.toNat → holds s.txbuf bs →
    (s.busy = false →
      exec (.cksum ty len) s = .next { s with
        cmd := encode (.cksum ty len), busy := true, done := false, err := .none, eom := false
        escp := false, phase := .calc, skipcnt := 0, txcnt := 0, rxcnt := 0 }) ∧
    (s.busy = true → s.phase = .calc →
      exec (.cksum ty len) s = .next { s with
        result := checksum bs, busy := false, done := true, phase := .idle, escp := false })

/-- UNESC and PARSE at acceptance (spec 40_codec R116, 42_framer R160, 30_encoding R87); the hidden
fields are left (log entry 27). -/
def Obligations.ReceiveCommandsAccepted : Prop :=
  ∀ (s : State) (ty len : Byte), s.busy = false →
    exec (.unesc ty len) s = .next { s with
      cmd := encode (.unesc ty len), busy := true, done := false, err := .none, eom := false
      escp := false, phase := .unesc, skipcnt := 0, txcnt := 0, rxcnt := 0 } ∧
    exec (.parse ty len) s = .next { s with
      cmd := encode (.parse ty len), busy := true, done := false, err := .none, eom := false
      escp := false, phase := .hunt, skipcnt := 0, txcnt := 0, rxcnt := 0 }

/-- Unwritten operands (spec 70_reset_and_hazards R222, R231): at acceptance a transmit or checksum
command faults exactly when its operand range covers an unwritten TXBUF byte. A CHUNK over 250 bytes
raises LEN_RANGE first (30_encoding R87, 60_exceptions R199), and that it therefore reads none and
never faults is the model's reading (log entry 8). -/
def Obligations.UnwrittenOperandFaultsAtAcceptance : Prop :=
  ∀ (s : State) (ty len : Byte), s.busy = false →
    (exec (.esc ty len) s = .fault .unwrittenOperand ↔
      ∃ k, k < len.toNat ∧ s.txbuf.read k = none) ∧
    (exec (.cksum ty len) s = .fault .unwrittenOperand ↔
      ∃ k, k < len.toNat ∧ s.txbuf.read k = none) ∧
    (exec (.frame ty len) s = .fault .unwrittenOperand ↔
      ∃ k, k < len.toNat ∧ s.txbuf.read k = none) ∧
    (exec (.chunk ty len) s = .fault .unwrittenOperand ↔
      len.toNat ≤ 250 ∧ ∃ k, k < len.toNat ∧ s.txbuf.read k = none)

/-! ## Engine steps of the transmit commands -/

/-- The transmit step of ESC, FRAME and CHUNK (spec 40_codec R119, 00_scope R17): with a byte left and a
ready sink it emits that byte, and completes with the last one; an exhausted sequence completes; with
no ready sink it has no step, so the state stays (log entry 19: the model's choice). Nothing else
changes: no buffer byte, no receive register. -/
def Obligations.TransmitStepEmitsNextByte : Prop :=
  ∀ (s : State) (i : Instr) (ty len : Byte),
    i = .esc ty len ∨ i = .frame ty len ∨ i = .chunk ty len → s.busy = true → s.phase = .tx →
    (∀ b, s.txseq[s.txpos]? = some b → 0 < s.txRoom → s.txpos + 1 < s.txseq.length →
      exec i s = .next { s with
        txRoom := s.txRoom - 1, txOut := s.txOut ++ [b], txcnt := satInc s.txcnt
        txpos := s.txpos + 1 }) ∧
    (∀ b, s.txseq[s.txpos]? = some b → 0 < s.txRoom → s.txpos + 1 = s.txseq.length →
      exec i s = .next { s with
        txRoom := s.txRoom - 1, txOut := s.txOut ++ [b], txcnt := satInc s.txcnt
        txpos := s.txpos + 1, busy := false, done := true, phase := .idle, escp := false }) ∧
    (s.txpos < s.txseq.length → s.txRoom = 0 → exec i s = .next s) ∧
    (s.txpos = s.txseq.length →
      exec i s = .next { s with busy := false, done := true, phase := .idle, escp := false })

/-! ## Engine steps of the receive commands -/

/-- A silent RX source (spec 70_reset_and_hazards R230): the receiving engine has no step, so the state
stays (log entry 19: the model's choice). -/
def Obligations.ReceiveWaitsForAnEvent : Prop :=
  ∀ (s : State) (i : Instr), s.busy = true → receiving i s.phase → s.rxPending = [] →
    exec i s = .next s

/-- RX_TIMEOUT (spec 60_exceptions R197): a consumed Timeout ends UNESC or PARSE, in every phase; it is
consumed and not counted, and what was written stays. -/
def Obligations.TimeoutRaisesRxTimeout : Prop :=
  ∀ (s : State) (i : Instr) (rest : List RxEvent), s.busy = true → receiving i s.phase →
    s.rxPending = .timeout :: rest →
    exec i s = .next { s with
      rxPending := rest, err := .rxTimeout, busy := false, done := true, phase := .idle
      escp := false }

/-- The first byte of an escaped byte (spec 40_codec R114): a marker sets ESCP and needs a second
engine step. -/
def Obligations.FirstMarkerSetsEscp : Prop :=
  ∀ (s : State) (i : Instr) (rest : List RxEvent), s.busy = true → receivingEscaped i s.phase →
    s.escp = false → s.rxPending = .byte 0x10 :: rest →
    exec i s = .next { s with rxPending := rest, rxcnt := satInc s.rxcnt, escp := true }

/-- FRAMING_DESYNC (spec 60_exceptions R196, 40_codec R115): a marker followed by another byte, both
consumed. -/
def Obligations.LoneMarkerRaisesFramingDesync : Prop :=
  ∀ (s : State) (i : Instr) (b : Byte) (rest : List RxEvent),
    s.busy = true → receivingEscaped i s.phase →
    s.escp = true → b ≠ 0x10 → s.rxPending = .byte b :: rest →
    exec i s = .next { s with
      rxPending := rest, rxcnt := satInc s.rxcnt, err := .framingDesync, busy := false
      done := true, phase := .idle, escp := false }

/-- UNESC (spec 40_codec R116): the unescaped byte goes to RESULT and the command completes. -/
def Obligations.UnescStoresResult : Prop :=
  ∀ (s : State) (ty len b v : Byte) (rest : List RxEvent), s.busy = true → s.phase = .unesc →
    s.rxPending = .byte b :: rest → arrives s b v →
    exec (.unesc ty len) s = .next { s with
      rxPending := rest, rxcnt := satInc s.rxcnt, result := v, busy := false, done := true
      phase := .idle, escp := false }

/-- PARSE's HUNT (spec 42_framer R162, R163): the first marker is the start marker, any other byte is
skipped and counted. -/
def Obligations.ParseHuntSkipsToMarker : Prop :=
  ∀ (s : State) (ty len b : Byte) (rest : List RxEvent), s.busy = true → s.phase = .hunt →
    s.rxPending = .byte b :: rest →
    exec (.parse ty len) s =
      if b = 0x10 then
        .next { s with rxPending := rest, rxcnt := satInc s.rxcnt, phase := .type }
      else
        .next { s with rxPending := rest, rxcnt := satInc s.rxcnt, skipcnt := satInc s.skipcnt }

/-- PARSE's TYPE, EOM_START and EOM_TYPE (spec 42_framer R164, R166, R167): the type is read raw; END
takes the end-of-message path once, whose start byte is discarded unchecked and whose type byte is
the type whatever it is. -/
def Obligations.ParseReadsTypeRaw : Prop :=
  ∀ (s : State) (ty len b : Byte) (rest : List RxEvent), s.busy = true →
    s.rxPending = .byte b :: rest →
    (s.phase = .type → b ≠ 0x03 →
      exec (.parse ty len) s = .next { s with
        rxPending := rest, rxcnt := satInc s.rxcnt, hidT := b, rxtype := b, phase := .len }) ∧
    (s.phase = .type → b = 0x03 →
      exec (.parse ty len) s = .next { s with
        rxPending := rest, rxcnt := satInc s.rxcnt, hidT := 0x03, eom := true
        phase := .eomStart }) ∧
    (s.phase = .eomStart →
      exec (.parse ty len) s = .next { s with
        rxPending := rest, rxcnt := satInc s.rxcnt, phase := .eomType }) ∧
    (s.phase = .eomType →
      exec (.parse ty len) s = .next { s with
        rxPending := rest, rxcnt := satInc s.rxcnt, hidT := b, rxtype := b, phase := .len })

/-- PARSE's LEN (spec 42_framer R160, R168): every length is accepted, and a length of 0 skips the
PAYLOAD phase. That IDX is set here is the model's choice (log entry 20). -/
def Obligations.ParseReadsLength : Prop :=
  ∀ (s : State) (ty len b v : Byte) (rest : List RxEvent), s.busy = true → s.phase = .len →
    s.rxPending = .byte b :: rest → arrives s b v →
    exec (.parse ty len) s = .next { s with
      rxPending := rest, rxcnt := satInc s.rxcnt, escp := false, hidL := v, rxlen := v, idx := 0
      phase := if v = 0 then .cksum else .payload }

/-- PARSE's PAYLOAD (spec 42_framer R169): the byte goes to RXBUF[IDX]; every other byte of RXBUF and
all of TXBUF read as before; the phase ends with the last byte of the declared length. That IDX then
stands at the length is the model's choice (log entry 20). -/
def Obligations.ParseStoresPayloadByte : Prop :=
  ∀ (s : State) (ty len b v : Byte) (rest : List RxEvent), s.busy = true → s.phase = .payload →
    s.rxPending = .byte b :: rest → arrives s b v →
    ∃ m : Memory, m.read s.idx = some v ∧ (∀ a, a ≠ s.idx → m.read a = s.rxbuf.read a) ∧
      exec (.parse ty len) s = .next { s with
        rxPending := rest, rxcnt := satInc s.rxcnt, escp := false, rxbuf := m, idx := s.idx + 1
        phase := if s.idx + 1 < s.hidL.toNat then .payload else .cksum }

/-- PARSE's CKSUM (spec 42_framer R170, R171, 60_exceptions R194): both checksums are stored together;
they agree and PARSE goes on to the end marker, or it raises CHECKSUM_MISMATCH at once. -/
def Obligations.ParseComparesChecksum : Prop :=
  ∀ (s : State) (ty len b v : Byte) (rest : List RxEvent) (p : List Byte),
    s.busy = true → s.phase = .cksum → s.rxPending = .byte b :: rest → arrives s b v →
    p.length = s.hidL.toNat → holds s.rxbuf p →
    exec (.parse ty len) s =
      if v = checksum ([s.hidT, s.hidL] ++ p) then
        .next { s with
          rxPending := rest, rxcnt := satInc s.rxcnt, escp := false, rxRecv := v, rxCalc := v
          phase := .end1 }
      else
        .next { s with
          rxPending := rest, rxcnt := satInc s.rxcnt, escp := false, rxRecv := v
          rxCalc := checksum ([s.hidT, s.hidL] ++ p), err := .checksumMismatch, busy := false
          done := true, phase := .idle }

/-- PARSE's END1 and END2 (spec 42_framer R172, R173, 60_exceptions R195): both bytes are read, and only
then compared with 10 03. Between them the model holds the first one (log entry 7). -/
def Obligations.ParseChecksEndMarker : Prop :=
  ∀ (s : State) (ty len b : Byte) (rest : List RxEvent), s.busy = true →
    s.rxPending = .byte b :: rest →
    (s.phase = .end1 →
      exec (.parse ty len) s = .next { s with
        rxPending := rest, rxcnt := satInc s.rxcnt, hidE1 := b, phase := .end2 }) ∧
    (s.phase = .end2 → s.hidE1 = 0x10 ∧ b = 0x03 →
      exec (.parse ty len) s = .next { s with
        rxPending := rest, rxcnt := satInc s.rxcnt, busy := false, done := true, phase := .idle
        escp := false }) ∧
    (s.phase = .end2 → ¬(s.hidE1 = 0x10 ∧ b = 0x03) →
      exec (.parse ty len) s = .next { s with
        rxPending := rest, rxcnt := satInc s.rxcnt, err := .framingEnd, busy := false, done := true
        phase := .idle, escp := false })

/-! ## The pure functions -/

/-- escape (spec 40_codec R110). -/
def Obligations.EscapeDoublesEveryMarker : Prop :=
  (∀ bs : List Byte,
    escape bs = (bs.map fun b => if b = 0x10 then [0x10, 0x10] else [b]).flatten) ∧
  escape [] = [] ∧ escape [0x10] = [0x10, 0x10] ∧
  (∀ bs : List Byte, (∀ b ∈ bs, b ≠ 0x10) → escape bs = bs)

/-- The laws of escape (spec 40_codec R111): its length, concatenation, even runs of markers, no lone
marker for a reader at a logical-byte boundary, injectivity. -/
def Obligations.EscapeLaws : Prop :=
  (∀ s : List Byte, (escape s).length = s.length + s.count 0x10 ∧
    s.length ≤ (escape s).length ∧ (escape s).length ≤ 2 * s.length) ∧
  (∀ a b : List Byte, escape (a ++ b) = escape a ++ escape b) ∧
  (∀ (s u v : List Byte) (n : Nat), escape s = u ++ List.replicate n 0x10 ++ v →
    u.getLast? ≠ some 0x10 → v.head? ≠ some 0x10 → n % 2 = 0) ∧
  (∀ a b rest : List Byte, escape b = 0x10 :: rest →
    escape (a ++ b) = escape a ++ 0x10 :: rest ∧ rest.head? = some 0x10) ∧
  (∀ a b : List Byte, escape a = escape b → a = b)

/-- checksum (spec 41_checksum R130). -/
def Obligations.ChecksumIsTwosComplementOfSum : Prop :=
  ∀ s : List Byte,
    (checksum s).toNat = (256 - ((s.map BitVec.toNat).sum % 256)) % 256 ∧
    ((s.map BitVec.toNat).sum % 256 = 0 → checksum s = 0)

/-- The laws of checksum (spec 41_checksum R132). -/
def Obligations.ChecksumLaws : Prop :=
  (∀ s : List Byte, ((s.map BitVec.toNat).sum + (checksum s).toNat) % 256 = 0) ∧
  (∀ s : List Byte, checksum (s ++ [checksum s]) = 0) ∧
  (∀ a b : List Byte, a.Perm b → checksum a = checksum b) ∧
  (∀ a b : List Byte, checksum (a ++ 0x00 :: b) = checksum (a ++ b)) ∧
  (∀ (a b : List Byte) (x y : Byte), x ≠ y →
    checksum (a ++ y :: b) ≠ checksum (a ++ x :: b) ∧
    checksum (a ++ y :: b) = checksum (a ++ x :: b) + (x - y)) ∧
  (∀ a b : List Byte,
    (checksum (a ++ b)).toNat = ((checksum a).toNat + (checksum b).toNat) % 256)

/-- The wire length of a frame (spec 42_framer R140, R143, 30_encoding R98): four raw bytes and the
three stuffed fields, at least 6 and at most 517 bytes, both reached. R98's formula writes 5 for the
raw bytes, against its own bounds, R91 and R140: log entry 28. -/
def Obligations.FrameWireLength : Prop :=
  (∀ (st : Bool) (t : Byte) (p : List Byte), p.length ≤ 255 →
    (encodeFrame st t (BitVec.ofNat 8 p.length) p).length =
      4 + (if st = true ∧ p.length = 16 then 2 else 1) + (p.length + p.count 0x10)
        + (if checksum (t :: BitVec.ofNat 8 p.length :: p) = 0x10 then 2 else 1) ∧
    6 ≤ (encodeFrame st t (BitVec.ofNat 8 p.length) p).length ∧
    (encodeFrame st t (BitVec.ofNat 8 p.length) p).length ≤ 517) ∧
  (∀ (st : Bool) (t : Byte), checksum [t, 0] ≠ 0x10 → (encodeFrame st t 0 []).length = 6) ∧
  (∀ st : Bool, (encodeFrame st 0x01 255 (List.replicate 255 0x10)).length = 517)

/-- Between the raw TYPE byte and the end marker a frame is the escaped form of its length, payload and
checksum (spec 30_encoding R91, R95, R99), so a marker shows there only in pairs. -/
def Obligations.FrameShowsMarkersOnlyInPairs : Prop :=
  ∀ (t l : Byte) (p : List Byte),
    ∃ mid, encodeFrame true t l p = [0x10, t] ++ mid ++ [0x10, 0x03] ∧
      mid = escape ([l] ++ p ++ [checksum ([t, l] ++ p)]) ∧
      (∀ (u v : List Byte) (n : Nat), mid = u ++ List.replicate n 0x10 ++ v →
        u.getLast? ≠ some 0x10 → v.head? ≠ some 0x10 → n % 2 = 0)

/-- CHUNK is FRAME with the offset prepended (spec 42_framer R152): for at most 250 data bytes, CHUNK
over OFFSET = o and TXBUF = d has the transmit sequence that FRAME of N + 4 has over le32(o) ++ d. -/
def Obligations.ChunkSendsFrameOfOffsetAndData : Prop :=
  ∀ (s u : State) (ty n : Byte) (d : List Byte),
    n.toNat ≤ 250 → d.length = n.toNat → s.busy = false → u.busy = false → s.cfg = u.cfg →
    holds s.txbuf d → holds u.txbuf (le32 s.offset ++ d) →
    ∃ s' u' : State, exec (.chunk ty n) s = .next s' ∧ exec (.frame ty (n + 4)) u = .next u' ∧
      s'.txseq = u'.txseq ∧ s'.txpos = u'.txpos

/-! ## Whole commands -/

/-- ESC, FRAME and CHUNK run to completion (spec 40_codec R112, R119, 42_framer R141, R143, R150,
20_memory R68, 70_reset_and_hazards R234): with a sink that accepts every byte, the CMD write and one
engine step a byte (one step if there is none) emit exactly the transmit sequence, and end with DONE
= 1, no error and TXCNT the number of bytes; nothing else of the block changes. That the hidden fields
acceptance does not name are left is the model's reading (log entry 27). -/
def Obligations.TransmitCommandEmitsItsSequence : Prop :=
  ∀ (s : State) (i : Instr) (len : Byte) (bs seq : List Byte),
    (∃ ty, i = .esc ty len ∨ i = .frame ty len ∨ (i = .chunk ty len ∧ len.toNat ≤ 250)) →
    s.busy = false → bs.length = len.toNat → holds s.txbuf bs →
    transmits s.cfg s.offset bs i = some seq → seq.length ≤ s.txRoom →
    s.agenda = [.host (.write .word s.cfg.bscBase (encode i))] →
    seq.length ≤ 517 ∧
    runFor (1 + max 1 seq.length) s = .next { s with
      agenda := [], cmd := encode i, busy := false, done := true, err := .none, eom := false
      escp := false, phase := .idle, skipcnt := 0, rxcnt := 0
      txcnt := BitVec.ofNat 32 seq.length, txseq := seq, txpos := seq.length
      txRoom := s.txRoom - seq.length, txOut := s.txOut ++ seq }

/-- One UNESC over the escaped form of a byte (spec 40_codec R117, R116): RESULT is the byte, exactly
its escaped form is consumed and counted, nothing is raised; the hidden fields are left (log entry
27). -/
def Obligations.UnescInvertsEscape : Prop :=
  ∀ (s : State) (ty len b : Byte) (rest : List RxEvent), s.busy = false →
    s.agenda = [.host (.write .word s.cfg.bscBase (encode (.unesc ty len)))] →
    s.rxPending = offered (escape [b]) ++ rest →
    runFor (1 + (escape [b]).length) s = .next { s with
      agenda := [], rxPending := rest, cmd := encode (.unesc ty len), busy := false, done := true
      err := .none, eom := false, escp := false, phase := .idle, skipcnt := 0, txcnt := 0
      rxcnt := BitVec.ofNat 32 (escape [b]).length, result := b }

/-- The frame round trip (spec 42_framer R176): stray bytes without a marker and then an encoded frame
of a type other than END parse to the type, the length and the payload, and what follows is left.
The counters stop at 0xFFFFFFFF (10_state R38, R40). -/
def Obligations.ParseInvertsEncodeFrame : Prop :=
  ∀ (s : State) (ty len t : Byte) (j p : List Byte) (r : List RxEvent),
    t ≠ 0x03 → p.length ≤ 255 → (∀ b ∈ j, b ≠ 0x10) → s.busy = false →
    s.agenda = [.host (.write .word s.cfg.bscBase (encode (.parse ty len)))] →
    s.rxPending = offered (j ++ encodeFrame true t (BitVec.ofNat 8 p.length) p) ++ r →
    ∃ u, runFor (1 + j.length + (encodeFrame true t (BitVec.ofNat 8 p.length) p).length) s = .next u ∧
      u.busy = false ∧ u.done = true ∧ u.err = .none ∧ u.eom = false ∧
      u.rxtype = t ∧ u.rxlen.toNat = p.length ∧ holds u.rxbuf p ∧
      (∀ k, p.length ≤ k → u.rxbuf.read k = s.rxbuf.read k) ∧
      u.rxRecv = checksum (t :: BitVec.ofNat 8 p.length :: p) ∧ u.rxCalc = u.rxRecv ∧
      u.skipcnt = saturated j.length ∧
      u.rxcnt = saturated (j.length + (encodeFrame true t (BitVec.ofNat 8 p.length) p).length) ∧
      u.rxPending = r ∧ u.txOut = s.txOut ∧ u.txcnt = 0 ∧ u.offset = s.offset ∧
      u.result = s.result ∧ u.txbuf = s.txbuf ∧ u.ovr = s.ovr

/-- A frame right after the end marker of an earlier one (spec 42_framer R166, R167, R178): it parses
through the end-of-message path, with EOM = 1 and nothing skipped, whatever its type. -/
def Obligations.ParseResumesAfterEndMarker : Prop :=
  ∀ (s : State) (ty len t : Byte) (p : List Byte) (r : List RxEvent),
    p.length ≤ 255 → s.busy = false →
    s.agenda = [.host (.write .word s.cfg.bscBase (encode (.parse ty len)))] →
    s.rxPending =
      offered ([0x10, 0x03] ++ encodeFrame true t (BitVec.ofNat 8 p.length) p) ++ r →
    ∃ u, runFor (3 + (encodeFrame true t (BitVec.ofNat 8 p.length) p).length) s = .next u ∧
      u.busy = false ∧ u.done = true ∧ u.err = .none ∧ u.eom = true ∧
      u.rxtype = t ∧ u.rxlen.toNat = p.length ∧ holds u.rxbuf p ∧ u.skipcnt = 0 ∧
      u.rxPending = r

/-- Corruption detection (spec 42_framer R177, R171): change one wire byte of a frame's escaped payload
from x to y, neither of them the marker, and PARSE raises CHECKSUM_MISMATCH, before the end marker,
which stays on the port. -/
def Obligations.CorruptPayloadByteRaisesMismatch : Prop :=
  ∀ (s : State) (ty len t x y : Byte) (j p : List Byte) (n : Nat) (r : List RxEvent),
    t ≠ 0x03 → p.length ≤ 255 → (∀ b ∈ j, b ≠ 0x10) → s.busy = false →
    (escape p)[n]? = some x → x ≠ 0x10 → y ≠ 0x10 → y ≠ x →
    s.agenda = [.host (.write .word s.cfg.bscBase (encode (.parse ty len)))] →
    s.rxPending =
      offered (j ++ [0x10, t] ++ escape [BitVec.ofNat 8 p.length] ++ (escape p).set n y
        ++ escape [checksum (t :: BitVec.ofNat 8 p.length :: p)] ++ [0x10, 0x03]) ++ r →
    ∃ u, runFor (j.length + (encodeFrame true t (BitVec.ofNat 8 p.length) p).length - 1) s = .next u ∧
      u.busy = false ∧ u.done = true ∧ u.err = .checksumMismatch ∧ u.rxRecv ≠ u.rxCalc ∧
      u.rxPending = .byte 0x10 :: .byte 0x03 :: r

/-! ## The register window -/

/-- What a host read of each offset returns (spec 10_state R22 to R43). -/
def Obligations.HostReadReturnsRegister : Prop :=
  ∀ (s : State) (rest : List Action) (off : Nat) (v : Word),
    s.agenda = .host (.read .word (s.cfg.bscBase + off)) :: rest →
    (off = 0x000 ∧ v = s.cmd ∨ off = 0x004 ∧ v = s.statusWord ∨ off = 0x008 ∧ v = 0 ∨
      off = 0x00C ∧ v.toNat = s.result.toNat ∨ off = 0x010 ∧ v = s.offset ∨
      off = 0x014 ∧ v.toNat = s.rxtype.toNat ∨ off = 0x018 ∧ v.toNat = s.rxlen.toNat ∨
      off = 0x01C ∧ v.toNat = s.rxRecv.toNat + s.rxCalc.toNat * 256 ∨
      off = 0x020 ∧ v = s.skipcnt ∨ off = 0x024 ∧ v = s.txcnt ∨ off = 0x028 ∧ v = s.rxcnt ∨
      (∃ i b, i < 256 ∧ off = 0x400 + 4 * i ∧ s.txbuf.read i = some b ∧ v.toNat = b.toNat) ∨
      (∃ i b, i < 256 ∧ off = 0x800 + 4 * i ∧ s.rxbuf.read i = some b ∧ v.toNat = b.toNat) ∨
      (off % 4 = 0 ∧ (0x030 ≤ off ∧ off < 0x400 ∨ 0xC00 ≤ off ∧ off < 0x1000) ∧ v = 0)) →
    step s = .next { s with agenda := rest, rdata := some v }

/-- STATUS by its bits (spec 10_state R25 to R31, R23), with the number of every phase (R31) and of every
error (60_exceptions R193). -/
def Obligations.StatusWordLayout : Prop :=
  (∀ s : State,
    s.statusWord.toNat = s.busy.toNat + 2 * s.done.toNat + 16 * s.err.code.toNat
      + 256 * s.eom.toNat + 512 * s.ovr.toNat + 1024 * s.escp.toNat + 4096 * s.phase.code.toNat) ∧
  Phase.idle.code.toNat = 0 ∧ Phase.tx.code.toNat = 1 ∧ Phase.calc.code.toNat = 2 ∧
  Phase.unesc.code.toNat = 3 ∧ Phase.hunt.code.toNat = 4 ∧ Phase.type.code.toNat = 5 ∧
  Phase.eomStart.code.toNat = 6 ∧ Phase.eomType.code.toNat = 7 ∧ Phase.len.code.toNat = 8 ∧
  Phase.payload.code.toNat = 9 ∧ Phase.cksum.code.toNat = 10 ∧ Phase.end1.code.toNat = 11 ∧
  Phase.end2.code.toNat = 12 ∧
  ErrCode.none.code.toNat = 0 ∧ ErrCode.checksumMismatch.code.toNat = 1 ∧
  ErrCode.framingEnd.code.toNat = 2 ∧ ErrCode.framingDesync.code.toNat = 3 ∧
  ErrCode.rxTimeout.code.toNat = 4 ∧ ErrCode.illegalCmd.code.toNat = 5 ∧
  ErrCode.lenRange.code.toNat = 6

/-- PARAM (spec 10_state R41): its bits, its value with either setting of LEN_STUFFED_ON_TX, the same
before and after a reset. -/
def Obligations.ParamReadsItsConstant : Prop :=
  ∀ (s : State) (rest : List Action),
    s.agenda = .host (.read .word (s.cfg.bscBase + 0x02C)) :: rest →
    step s = .next { s with
      agenda := rest, rdata := some (if s.cfg.lenStuffedOnTx then 0x01FA0310 else 0x00FA0310) } ∧
    s.softReset.readReg .param = s.readReg .param ∧ s.powerOn.readReg .param = s.readReg .param

/-- Reads have no side effect (spec 20_memory R64): a host read changes nothing but the value the host
holds and the agenda, and the same read again returns the same value. (That the state holds the
host's value and its turns is how the model writes a read down: log entries 1 and 5.) -/
def Obligations.HostReadHasNoSideEffect : Prop :=
  ∀ (s t : State) (size : AccessSize) (addr : Nat) (rest : List Action),
    s.agenda = .host (.read size addr) :: rest → step s = .next t →
    t = { s with agenda := rest, rdata := t.rdata } ∧
    step { t with agenda := .host (.read size addr) :: rest } = .next t

/-- A host read of a buffer byte faults exactly when the byte is unwritten (spec 70_reset_and_hazards
R222). -/
def Obligations.UnwrittenBufferReadFaults : Prop :=
  ∀ (s : State) (i : Nat) (rest : List Action), i < 256 →
    (s.agenda = .host (.read .word (s.cfg.bscBase + 0x400 + 4 * i)) :: rest →
      (step s = .fault .unwrittenRead ↔ s.txbuf.read i = none)) ∧
    (s.agenda = .host (.read .word (s.cfg.bscBase + 0x800 + 4 * i)) :: rest →
      (step s = .fault .unwrittenRead ↔ s.rxbuf.read i = none))

/-- Writes while a command executes (spec 70_reset_and_hazards R226, 10_state R29): CMD, OFFSET and TXBUF
keep their values and OVR is set; the command goes on untouched. -/
def Obligations.BusyWritesOnlySetOvr : Prop :=
  ∀ (s : State) (off : Nat) (data : Word) (rest : List Action), s.busy = true →
    s.agenda = .host (.write .word (s.cfg.bscBase + off) data) :: rest →
    off = 0x000 ∨ off = 0x010 ∨ (∃ i, i < 256 ∧ off = 0x400 + 4 * i) →
    step s = .next { s with agenda := rest, ovr := true }

/-- Writes of OFFSET and TXBUF[i] while idle (spec 10_state R34, R42): the word, or the byte in its low
bits; every other TXBUF byte and all of RXBUF read as before. -/
def Obligations.IdleWritesStoreOperands : Prop :=
  ∀ (s : State) (data : Word) (rest : List Action), s.busy = false →
    (s.agenda = .host (.write .word (s.cfg.bscBase + 0x010) data) :: rest →
      step s = .next { s with agenda := rest, offset := data }) ∧
    (∀ i, i < 256 → s.agenda = .host (.write .word (s.cfg.bscBase + 0x400 + 4 * i) data) :: rest →
      ∃ m : Memory, m.read i = some (data.setWidth 8) ∧
        (∀ a, a ≠ i → m.read a = s.txbuf.read a) ∧
        step s = .next { s with agenda := rest, txbuf := m })

/-- Writes of a read-only register or a reserved offset do nothing, whatever the engine is doing (spec
10_state R23). -/
def Obligations.ReadOnlyWritesIgnored : Prop :=
  ∀ (s : State) (off : Nat) (data : Word) (rest : List Action),
    s.agenda = .host (.write .word (s.cfg.bscBase + off) data) :: rest →
    off % 4 = 0 → off < 0x1000 →
    (off = 0x00C ∨ (0x014 ≤ off ∧ off < 0x400) ∨ 0x800 ≤ off) →
    step s = .next { s with agenda := rest }

/-- Soft reset (spec 70_reset_and_hazards R223, R221): every register takes its reset value whether or
not a command executes, the buffers and the ports keep what they hold; a CTRL write with bit 0 = 0
does nothing (10_state R32). -/
def Obligations.CtrlWriteResets : Prop :=
  ∀ (s : State) (data : Word) (rest : List Action),
    s.agenda = .host (.write .word (s.cfg.bscBase + 0x008) data) :: rest →
    (data.getLsbD 0 = true →
      ∃ t, step s = .next t ∧
        t.cmd = 0 ∧ t.statusWord = 0 ∧ t.phase = .idle ∧ t.result = 0 ∧ t.offset = 0 ∧ t.rxtype = 0 ∧
        t.rxlen = 0 ∧ t.rxRecv = 0 ∧ t.rxCalc = 0 ∧ t.skipcnt = 0 ∧ t.txcnt = 0 ∧ t.rxcnt = 0 ∧
        t.txbuf = s.txbuf ∧ t.rxbuf = s.rxbuf ∧ t.cfg = s.cfg ∧ t.agenda = rest ∧
        t.rxPending = s.rxPending ∧ t.txRoom = s.txRoom ∧ t.txOut = s.txOut ∧ t.rdata = s.rdata) ∧
    (data.getLsbD 0 = false → step s = .next { s with agenda := rest })

/-- Power-on reset (spec 70_reset_and_hazards R221, R222, R224): every register 0 but PARAM, every buffer
byte unwritten, the ports untouched; State.reset is such a state. -/
def Obligations.PowerOnResetValues : Prop :=
  (∀ (s : State) (rest : List Action), s.agenda = .powerOn :: rest →
    ∃ t, step s = .next t ∧
      t.cmd = 0 ∧ t.statusWord = 0 ∧ t.phase = .idle ∧ t.result = 0 ∧ t.offset = 0 ∧ t.rxtype = 0 ∧
      t.rxlen = 0 ∧ t.rxcksumWord = 0 ∧ t.skipcnt = 0 ∧ t.txcnt = 0 ∧ t.rxcnt = 0 ∧
      (∀ i, t.txbuf.read i = none ∧ t.rxbuf.read i = none) ∧ t.cfg = s.cfg ∧
      t.rxPending = s.rxPending ∧ t.txOut = s.txOut) ∧
  State.reset.cmd = 0 ∧ State.reset.statusWord = 0 ∧ State.reset.result = 0 ∧
  State.reset.offset = 0 ∧ State.reset.rxtype = 0 ∧ State.reset.rxlen = 0 ∧
  State.reset.rxcksumWord = 0 ∧ State.reset.skipcnt = 0 ∧ State.reset.txcnt = 0 ∧
  State.reset.rxcnt = 0 ∧
  (∀ i, State.reset.txbuf.read i = none ∧ State.reset.rxbuf.read i = none) ∧
  State.reset.readReg .param = some 0x01FA0310

/-- An access inside the window that is no aligned 32-bit word is refused, and an aligned word access
of a reserved offset is defined (spec 20_memory R61). -/
def Obligations.UndefinedAccessesRefused : Prop :=
  ∀ (s : State) (size : AccessSize) (off : Nat) (data : Word) (rest : List Action), off < 0x1000 →
    s.agenda = .host (.read size (s.cfg.bscBase + off)) :: rest ∨
      s.agenda = .host (.write size (s.cfg.bscBase + off) data) :: rest →
    (step s = .refused .undefinedAccess ↔ size ≠ .word ∨ off % 4 ≠ 0) ∧
    (size = .word → off % 4 = 0 → (0x030 ≤ off ∧ off < 0x400 ∨ 0xC00 ≤ off) →
      ∃ t, step s = .next t)

/-- A second host and a second writer on the link are refused (spec 20_memory R78, 60_exceptions R211);
an access outside the window faults (log entry 14: the model's choice). -/
def Obligations.OutsidersStop : Prop :=
  ∀ (s : State) (rest : List Action) (a : HostAccess) (b : Byte) (size : AccessSize) (addr : Nat)
      (data : Word),
    (s.agenda = .otherHost a :: rest → step s = .refused .secondHost) ∧
    (s.agenda = .otherWriter b :: rest → step s = .refused .secondWriter) ∧
    (addr < s.cfg.bscBase ∨ s.cfg.bscBase + 0x1000 ≤ addr →
      (s.agenda = .host (.read size addr) :: rest → step s = .fault .outsideWindow) ∧
      (s.agenda = .host (.write size addr data) :: rest → step s = .fault .outsideWindow))

/-! ## The whole machine -/

/-- Reset leaves a sound state (spec 70_reset_and_hazards R221, R222). BSC_BASE = 0 is the model's choice
(log entry 12). -/
def Obligations.ResetIsSound : Prop := Inv State.reset

/-- Every step keeps soundness: the canonical form of the buffers, PHASE and CMD in step with BUSY, ESCP
only in escaped fields, EOM only of PARSE, TXCNT with TXPOS, the partial results of PARSE (spec
10_state R24 to R31, R39, R44). -/
def Obligations.StepKeepsSoundness : Prop := ∀ s t : State, Inv s → step s = .next t → Inv t

/-- In a sound state the engine never stops (spec 60_exceptions R190, R201): only an access or an outside
agent makes a step fault or be refused. -/
def Obligations.OnlyAccessesStop : Prop :=
  ∀ s : State, Inv s → stops (step s) →
    ∃ rest, (∃ a, s.agenda = .host a :: rest) ∨ (∃ a, s.agenda = .otherHost a :: rest) ∨
      (∃ b, s.agenda = .otherWriter b :: rest)

/-- What an engine step leaves alone (spec 10_state R29, R34, R41, R42, 20_memory R69, 60_exceptions R192):
CMD, OFFSET, OVR, every TXBUF byte and the parameters; emitted bytes stay emitted; RX events are
consumed at most one, from the front. -/
def Obligations.EngineStepFrame : Prop :=
  ∀ (s t : State) (i : Instr), s.busy = true → exec i s = .next t →
    t.cmd = s.cmd ∧ t.offset = s.offset ∧ t.ovr = s.ovr ∧ t.txbuf = s.txbuf ∧ t.cfg = s.cfg ∧
    t.rdata = s.rdata ∧ t.agenda = s.agenda ∧ t.txseq = s.txseq ∧
    (t.txOut = s.txOut ∨ ∃ b, s.txseq[s.txpos]? = some b ∧ t.txOut = s.txOut ++ [b]) ∧
    (t.rxPending = s.rxPending ∨ ∃ e, s.rxPending = e :: t.rxPending)

/-- Which registers a command can write at all (spec 10_state R28, R33, R35, R36, R37, R43, 40_codec R112,
R116, 41_checksum R131, 42_framer R141, R150): only PARSE writes RXTYPE, RXLEN, RXCKSUM, RXBUF and sets
EOM, only UNESC and CKSUM write RESULT, only ESC, FRAME and CHUNK emit, only UNESC and PARSE consume. -/
def Obligations.CommandsWriteOnlyTheirRegisters : Prop :=
  ∀ (s t : State) (i : Instr), exec i s = .next t →
    ((∀ ty len, i ≠ .parse ty len) →
      t.rxtype = s.rxtype ∧ t.rxlen = s.rxlen ∧ t.rxRecv = s.rxRecv ∧ t.rxCalc = s.rxCalc ∧
      (∀ a, t.rxbuf.read a = s.rxbuf.read a) ∧ (t.eom = true → s.eom = true)) ∧
    ((∀ ty len, i ≠ .unesc ty len ∧ i ≠ .cksum ty len) → t.result = s.result) ∧
    ((∀ ty len, i ≠ .esc ty len ∧ i ≠ .frame ty len ∧ i ≠ .chunk ty len) →
      t.txOut = s.txOut ∧ t.txRoom = s.txRoom) ∧
    ((∀ ty len, i ≠ .unesc ty len ∧ i ≠ .parse ty len) → t.rxPending = s.rxPending) ∧
    (∀ a, t.txbuf.read a = s.txbuf.read a) ∧ t.offset = s.offset ∧ t.ovr = s.ovr ∧ t.cfg = s.cfg

/-- While a command goes on executing its operands do not change (spec 20_memory R76, 10_state R29,
R42): CMD, OFFSET, TXBUF and TXSEQ are fixed from acceptance to the end. -/
def Obligations.OperandsFixedWhileBusy : Prop :=
  ∀ s t : State, s.busy = true → step s = .next t → t.busy = true →
    t.cmd = s.cmd ∧ t.offset = s.offset ∧ t.txseq = s.txseq ∧
    (∀ a, t.txbuf.read a = s.txbuf.read a)

/-- OVR (spec 10_state R29): a step sets it only by a write of CMD, OFFSET or TXBUF while BUSY = 1, and
clears it only by a STATUS write with bit 9 = 1, a soft reset or power-on reset; a STATUS write does
nothing else. -/
def Obligations.OvrSetAndClearedOnlyByHost : Prop :=
  (∀ s t : State, step s = .next t → s.ovr = false → t.ovr = true →
    s.busy = true ∧ ∃ off data rest,
      s.agenda = .host (.write .word (s.cfg.bscBase + off) data) :: rest ∧
      (off = 0x000 ∨ off = 0x010 ∨ 0x400 ≤ off ∧ off < 0x800)) ∧
  (∀ s t : State, step s = .next t → s.ovr = true → t.ovr = false →
    ∃ rest, s.agenda = .powerOn :: rest ∨
      (∃ data, s.agenda = .host (.write .word (s.cfg.bscBase + 0x004) data) :: rest ∧
        data.getLsbD 9 = true) ∨
      (∃ data, s.agenda = .host (.write .word (s.cfg.bscBase + 0x008) data) :: rest ∧
        data.getLsbD 0 = true)) ∧
  (∀ (s : State) (data : Word) (rest : List Action),
    s.agenda = .host (.write .word (s.cfg.bscBase + 0x004) data) :: rest →
    step s = .next { s with agenda := rest, ovr := if data.getLsbD 9 then false else s.ovr })

/-- The hidden state is meaningless while no command executes (spec 10_state R44): two idle states that
differ only there run alike, for any number of steps, in everything else and in how they stop. -/
def Obligations.IdleHiddenStateNeverShows : Prop :=
  ∀ (n : Nat) (s u : State), s.busy = false → s.visible = u.visible →
    visibleOutcome (runFor n s) = visibleOutcome (runFor n u)

/-- The ports (spec 00_scope R16, R17, 20_memory R68, R69): in every step the sink's bytes only grow, by at
most one, and the pending events lose at most their first one or gain one at the end. -/
def Obligations.PortsKeepOrder : Prop :=
  ∀ s t : State, step s = .next t →
    (t.txOut = s.txOut ∨ ∃ b, t.txOut = s.txOut ++ [b]) ∧
    (t.rxPending = s.rxPending ∨ (∃ e, s.rxPending = e :: t.rxPending) ∨
      ∃ e, t.rxPending = s.rxPending ++ [e])

/-- The turns of the RX source and the TX sink (spec 00_scope R16, R17, R18): an offer waits behind the
events offered before it, and an acceptance makes room for one byte; the block does not change. How
the environment stands in the state is the model's choice (log entries 1, 3, 4). A finished command
stays finished (20_memory R74): with BUSY = 0 the engine's turn changes nothing. -/
def Obligations.PortTurnsAndIdleEngine : Prop :=
  ∀ (s : State) (e : RxEvent) (rest : List Action),
    (s.agenda = .rxOffer e :: rest →
      step s = .next { s with agenda := rest, rxPending := s.rxPending ++ [e] }) ∧
    (s.agenda = .txAccept :: rest →
      step s = .next { s with agenda := rest, txRoom := s.txRoom + 1 }) ∧
    (s.busy = false → s.agenda = .engine :: rest → step s = .next { s with agenda := rest }) ∧
    (s.busy = false → s.agenda = [] → step s = .next s)

/-- The counters (spec 10_state R38, R39, R40): an increment saturates at 0xFFFFFFFF. -/
def Obligations.CountersSaturate : Prop :=
  ∀ w : Word, (satInc w).toNat = min (w.toNat + 1) 0xFFFFFFFF
end

