-- ==== Sys2Proof/Laws/Codec.lean ====
section
/-! SUPPORT. The small lemmas of the pure functions: escape by its head, the checksum as a number, the
increment of a counter. -/

namespace Sys2Proof.Machine

@[simp] theorem escape_nil : escape [] = [] := rfl

@[simp] theorem escape_marker_cons (bs : List Byte) :
    escape (marker :: bs) = marker :: marker :: escape bs := rfl

theorem escape_cons_ne (b : Byte) (bs : List Byte) (h : b ≠ marker) :
    escape (b :: bs) = b :: escape bs := by simp [escape, h]

@[simp] theorem byteSum_nil : byteSum [] = 0 := rfl

@[simp] theorem byteSum_cons (b : Byte) (bs : List Byte) :
    byteSum (b :: bs) = b.toNat + byteSum bs := rfl

theorem byteSum_append (a b : List Byte) : byteSum (a ++ b) = byteSum a + byteSum b := by
  induction a with
  | nil => simp
  | cons x a ih => simp [ih, Nat.add_assoc]

/-- checksum as a number. -/
theorem checksum_toNat (bs : List Byte) :
    (checksum bs).toNat = (256 - byteSum bs % 256) % 256 := by
  simp [checksum]

theorem le32_length (w : Word) : (le32 w).length = 4 := rfl

/-- satInc as a number. -/
theorem satInc_toNat (w : Word) :
    (satInc w).toNat = if w.toNat = 4294967295 then 4294967295 else w.toNat + 1 := by
  have hw := w.isLt
  unfold satInc
  by_cases h : w = 0xFFFFFFFF
  · subst h; rfl
  · have hn : w.toNat ≠ 4294967295 := fun e => h (BitVec.eq_of_toNat_eq (by simpa using e))
    have h1 : (1 : Word).toNat = 1 := rfl
    rw [if_neg h, if_neg hn, BitVec.toNat_add, h1]
    omega

/-- Counting one more: the saturated counter of n and one more is that of n + 1. -/
theorem satInc_saturated (n : Nat) : satInc (saturated n) = saturated (n + 1) := by
  apply BitVec.eq_of_toNat_eq
  rw [satInc_toNat]
  simp only [saturated, BitVec.toNat_ofNat]
  split <;> omega

end Sys2Proof.Machine
end

