-- ==== Sys2Proof/Laws/Memory.lean ====
section
/-! SUPPORT. The buffers: read after write, the canonical form, ranges. -/

namespace Sys2Proof.Machine

@[simp] theorem read_nil (a : Nat) : Memory.read [] a = none := rfl

/-- The byte just written is read. -/
@[simp] theorem read_write_same (m : Memory) (a : Nat) (b : Byte) :
    (m.write a b).read a = some b := by
  induction m with
  | nil => simp [Memory.write, Memory.read]
  | cons c m ih =>
    obtain ⟨k, v⟩ := c
    simp only [Memory.write]
    split
    · simp [Memory.read]
    · split
      · simp [Memory.read]
      · next h1 h2 => simp [Memory.read, Ne.symm h2, ih]

/-- A write leaves every other byte alone. -/
theorem read_write_ne (m : Memory) (a c : Nat) (b : Byte) (h : c ≠ a) :
    (m.write a b).read c = m.read c := by
  induction m with
  | nil => simp [Memory.write, Memory.read, Ne.symm h]
  | cons d m ih =>
    obtain ⟨k, v⟩ := d
    simp only [Memory.write]
    split
    · simp [Memory.read, Ne.symm h]
    · split
      · next h1 h2 => subst h2; simp [Memory.read, Ne.symm h]
      · simp [Memory.read, ih]

/-- A byte below the lower bound of a canonical list is unwritten. -/
theorem read_below (m : Memory) (lo a : Nat) (h : Memory.wfFrom lo m = true) (ha : a < lo) :
    m.read a = none := by
  induction m generalizing lo with
  | nil => rfl
  | cons c m ih =>
    obtain ⟨k, v⟩ := c
    simp only [Memory.wfFrom, Bool.and_eq_true, decide_eq_true_eq] at h
    have : k ≠ a := by omega
    simp [Memory.read, this, ih (k + 1) h.2 (by omega)]

/-- A write inside the buffer keeps the canonical form. -/
theorem wfFrom_write (m : Memory) (lo a : Nat) (b : Byte) (h : Memory.wfFrom lo m = true)
    (hlo : lo ≤ a) (ha : a < bufBytes) : Memory.wfFrom lo (m.write a b) = true := by
  induction m generalizing lo with
  | nil => simp [Memory.write, Memory.wfFrom, hlo, ha]
  | cons c m ih =>
    obtain ⟨k, v⟩ := c
    simp only [Memory.wfFrom, Bool.and_eq_true, decide_eq_true_eq] at h
    simp only [Memory.write]
    split
    · next hlt =>
      simp only [Memory.wfFrom, Bool.and_eq_true, decide_eq_true_eq]
      exact ⟨⟨hlo, ha⟩, ⟨by omega, h.1.2⟩, h.2⟩
    · split
      · next hge he =>
        subst he
        simpa [Memory.wfFrom, hlo, ha] using h.2
      · simp only [Memory.wfFrom, Bool.and_eq_true, decide_eq_true_eq]
        exact ⟨h.1, ih (k + 1) h.2 (by omega)⟩

theorem wf_write (m : Memory) (a : Nat) (b : Byte) (h : m.wf = true) (ha : a < bufBytes) :
    (m.write a b).wf = true := wfFrom_write m 0 a b h (Nat.zero_le a) ha

theorem wf_nil : Memory.wf [] = true := rfl

/-- Two canonical lists that read alike are equal. -/
theorem wfFrom_ext (m n : Memory) (lo : Nat) (hm : Memory.wfFrom lo m = true)
    (hn : Memory.wfFrom lo n = true) (h : ∀ a, m.read a = n.read a) : m = n := by
  induction m generalizing n lo with
  | nil =>
    cases n with
    | nil => rfl
    | cons d n => obtain ⟨k, v⟩ := d; simpa [Memory.read] using h k
  | cons c m ih =>
    obtain ⟨k, v⟩ := c
    cases n with
    | nil => simpa [Memory.read] using h k
    | cons d n =>
      obtain ⟨k', v'⟩ := d
      simp only [Memory.wfFrom, Bool.and_eq_true, decide_eq_true_eq] at hm hn
      have hk : k = k' := by
        rcases Nat.lt_trichotomy k k' with hlt | he | hgt
        · have := h k
          have hz := read_below n (k' + 1) k hn.2 (by omega)
          simp [Memory.read, Nat.ne_of_gt hlt, hz] at this
        · exact he
        · have := h k'
          have hz := read_below m (k + 1) k' hm.2 (by omega)
          simp [Memory.read, Nat.ne_of_gt hgt, hz] at this
      subst hk
      have hv : v = v' := by simpa [Memory.read] using h k
      subst hv
      congr 1
      apply ih n (k + 1) hm.2 hn.2
      intro a
      by_cases ha : k = a
      · subst ha
        rw [read_below m (k + 1) k hm.2 (by omega), read_below n (k + 1) k hn.2 (by omega)]
      · simpa [Memory.read, ha] using h a

/-- Canonical buffers that read alike are equal data. -/
theorem wf_ext (m n : Memory) (hm : m.wf = true) (hn : n.wf = true)
    (h : ∀ a, m.read a = n.read a) : m = n := wfFrom_ext m n 0 hm hn h

/-- What a range answers: the bytes, each of them written. -/
theorem range_eq_some_iff (m : Memory) (a n : Nat) (bs : List Byte) :
    m.range a n = some bs ↔ bs.length = n ∧ ∀ k, k < n → m.read (a + k) = bs[k]? := by
  induction n generalizing a bs with
  | zero =>
    simp only [Memory.range, Option.some.injEq]
    constructor
    · rintro rfl; simp
    · rintro ⟨h, -⟩; exact (List.length_eq_zero_iff.mp h).symm
  | succ n ih =>
    simp only [Memory.range]
    constructor
    · intro h
      split at h
      · next b cs hb hcs =>
        obtain rfl : b :: cs = bs := by simpa using h
        obtain ⟨hl, hr⟩ := (ih (a + 1) cs).mp hcs
        refine ⟨by simp [hl], fun k hk => ?_⟩
        cases k with
        | zero => simpa using hb
        | succ k => simpa [Nat.add_assoc, Nat.add_comm 1 k] using hr k (by omega)
      · cases h
    · rintro ⟨hl, hr⟩
      cases bs with
      | nil => simp at hl
      | cons b cs =>
        have h0 := hr 0 (by omega)
        have hcs : Memory.range m (a + 1) n = some cs :=
          (ih (a + 1) cs).mpr ⟨by simpa using hl, fun k hk => by
            simpa [Nat.add_assoc, Nat.add_comm 1 k] using hr (k + 1) (by omega)⟩
        simp only [Nat.add_zero, List.getElem?_cons_zero] at h0
        simp [h0, hcs]

/-- A range answers nothing exactly when a byte of it is unwritten. -/
theorem range_eq_none_iff (m : Memory) (a n : Nat) :
    m.range a n = none ↔ ∃ k, k < n ∧ m.read (a + k) = none := by
  induction n generalizing a with
  | zero => simp [Memory.range]
  | succ n ih =>
    simp only [Memory.range]
    constructor
    · intro h
      split at h
      · cases h
      · next hnot =>
        cases hb : m.read a with
        | none => exact ⟨0, by omega, hb⟩
        | some b =>
          cases hcs : m.range (a + 1) n with
          | none =>
            obtain ⟨k, hk, hr⟩ := (ih (a + 1)).mp hcs
            exact ⟨k + 1, by omega, by rw [← hr]; congr 1; omega⟩
          | some cs => exact absurd hcs (hnot b cs hb)
    · rintro ⟨k, hk, hr⟩
      cases k with
      | zero => rw [Nat.add_zero] at hr; simp [hr]
      | succ k =>
        have : m.range (a + 1) n = none :=
          (ih (a + 1)).mpr ⟨k, by omega, by rw [← hr]; congr 1; omega⟩
        simp [this]

/-- A buffer that holds bs answers them as its first bytes. -/
theorem range_of_holds (m : Memory) (bs : List Byte) (n : Nat) (hn : bs.length = n)
    (h : holds m bs) : m.range 0 n = some bs :=
  (range_eq_some_iff m 0 n bs).mpr ⟨hn, fun k hk => by simpa using h k (by omega)⟩

/-- The first bytes of a buffer, once answered, are what it holds. -/
theorem holds_of_range (m : Memory) (bs : List Byte) (n : Nat) (h : m.range 0 n = some bs) :
    bs.length = n ∧ holds m bs := by
  obtain ⟨hl, hr⟩ := (range_eq_some_iff m 0 n bs).mp h
  exact ⟨hl, fun k hk => by simpa using hr k (by omega)⟩

/-- A byte written past the range, or inside it, leaves the range written. -/
theorem range_isSome_write (m : Memory) (a n c : Nat) (b : Byte)
    (h : (m.range a n).isSome = true) : ((m.write c b).range a n).isSome = true := by
  rw [Option.isSome_iff_ne_none] at h ⊢
  intro hn
  apply h
  obtain ⟨k, hk, hr⟩ := (range_eq_none_iff _ a n).mp hn
  refine (range_eq_none_iff m a n).mpr ⟨k, hk, ?_⟩
  by_cases hc : a + k = c
  · subst hc; simp at hr
  · rwa [read_write_ne m c (a + k) b hc] at hr

/-- Writing the byte at the end of a written range makes it one longer. -/
theorem range_isSome_snoc (m : Memory) (n : Nat) (b : Byte)
    (h : (m.range 0 n).isSome = true) : ((m.write n b).range 0 (n + 1)).isSome = true := by
  rw [Option.isSome_iff_ne_none] at h ⊢
  intro hn
  obtain ⟨k, hk, hr⟩ := (range_eq_none_iff _ 0 (n + 1)).mp hn
  rw [Nat.zero_add] at hr
  by_cases hc : k = n
  · subst hc; simp at hr
  · rw [read_write_ne m n k b hc] at hr
    exact h ((range_eq_none_iff m 0 n).mpr ⟨k, by omega, by simpa using hr⟩)

end Sys2Proof.Machine
end

