-- ==== Sys2Proof/Laws/State.lean ====
section
/-! SUPPORT. For each update of the state, each field after it, so that no proof unfolds a record. -/

namespace Sys2Proof.Machine

/-! ### accept -/

@[simp] theorem accept_cfg (w : Word) (s : State) : (s.accept w).cfg = s.cfg := rfl
@[simp] theorem accept_cmd (w : Word) (s : State) : (s.accept w).cmd = w := rfl
@[simp] theorem accept_busy (w : Word) (s : State) : (s.accept w).busy = s.busy := rfl
@[simp] theorem accept_done (w : Word) (s : State) : (s.accept w).done = false := rfl
@[simp] theorem accept_err (w : Word) (s : State) : (s.accept w).err = .none := rfl
@[simp] theorem accept_eom (w : Word) (s : State) : (s.accept w).eom = false := rfl
@[simp] theorem accept_ovr (w : Word) (s : State) : (s.accept w).ovr = s.ovr := rfl
@[simp] theorem accept_escp (w : Word) (s : State) : (s.accept w).escp = false := rfl
@[simp] theorem accept_phase (w : Word) (s : State) : (s.accept w).phase = s.phase := rfl
@[simp] theorem accept_result (w : Word) (s : State) : (s.accept w).result = s.result := rfl
@[simp] theorem accept_offset (w : Word) (s : State) : (s.accept w).offset = s.offset := rfl
@[simp] theorem accept_rxtype (w : Word) (s : State) : (s.accept w).rxtype = s.rxtype := rfl
@[simp] theorem accept_rxlen (w : Word) (s : State) : (s.accept w).rxlen = s.rxlen := rfl
@[simp] theorem accept_rxRecv (w : Word) (s : State) : (s.accept w).rxRecv = s.rxRecv := rfl
@[simp] theorem accept_rxCalc (w : Word) (s : State) : (s.accept w).rxCalc = s.rxCalc := rfl
@[simp] theorem accept_skipcnt (w : Word) (s : State) : (s.accept w).skipcnt = 0 := rfl
@[simp] theorem accept_txcnt (w : Word) (s : State) : (s.accept w).txcnt = 0 := rfl
@[simp] theorem accept_rxcnt (w : Word) (s : State) : (s.accept w).rxcnt = 0 := rfl
@[simp] theorem accept_txbuf (w : Word) (s : State) : (s.accept w).txbuf = s.txbuf := rfl
@[simp] theorem accept_rxbuf (w : Word) (s : State) : (s.accept w).rxbuf = s.rxbuf := rfl
@[simp] theorem accept_txseq (w : Word) (s : State) : (s.accept w).txseq = s.txseq := rfl
@[simp] theorem accept_txpos (w : Word) (s : State) : (s.accept w).txpos = s.txpos := rfl
@[simp] theorem accept_idx (w : Word) (s : State) : (s.accept w).idx = s.idx := rfl
@[simp] theorem accept_hidT (w : Word) (s : State) : (s.accept w).hidT = s.hidT := rfl
@[simp] theorem accept_hidL (w : Word) (s : State) : (s.accept w).hidL = s.hidL := rfl
@[simp] theorem accept_hidE1 (w : Word) (s : State) : (s.accept w).hidE1 = s.hidE1 := rfl
@[simp] theorem accept_agenda (w : Word) (s : State) : (s.accept w).agenda = s.agenda := rfl
@[simp] theorem accept_rxPending (w : Word) (s : State) : (s.accept w).rxPending = s.rxPending := rfl
@[simp] theorem accept_txRoom (w : Word) (s : State) : (s.accept w).txRoom = s.txRoom := rfl
@[simp] theorem accept_txOut (w : Word) (s : State) : (s.accept w).txOut = s.txOut := rfl
@[simp] theorem accept_rdata (w : Word) (s : State) : (s.accept w).rdata = s.rdata := rfl

/-! ### complete -/

@[simp] theorem complete_cfg (s : State) : (s.complete).cfg = s.cfg := rfl
@[simp] theorem complete_cmd (s : State) : (s.complete).cmd = s.cmd := rfl
@[simp] theorem complete_busy (s : State) : (s.complete).busy = false := rfl
@[simp] theorem complete_done (s : State) : (s.complete).done = true := rfl
@[simp] theorem complete_err (s : State) : (s.complete).err = s.err := rfl
@[simp] theorem complete_eom (s : State) : (s.complete).eom = s.eom := rfl
@[simp] theorem complete_ovr (s : State) : (s.complete).ovr = s.ovr := rfl
@[simp] theorem complete_escp (s : State) : (s.complete).escp = false := rfl
@[simp] theorem complete_phase (s : State) : (s.complete).phase = .idle := rfl
@[simp] theorem complete_result (s : State) : (s.complete).result = s.result := rfl
@[simp] theorem complete_offset (s : State) : (s.complete).offset = s.offset := rfl
@[simp] theorem complete_rxtype (s : State) : (s.complete).rxtype = s.rxtype := rfl
@[simp] theorem complete_rxlen (s : State) : (s.complete).rxlen = s.rxlen := rfl
@[simp] theorem complete_rxRecv (s : State) : (s.complete).rxRecv = s.rxRecv := rfl
@[simp] theorem complete_rxCalc (s : State) : (s.complete).rxCalc = s.rxCalc := rfl
@[simp] theorem complete_skipcnt (s : State) : (s.complete).skipcnt = s.skipcnt := rfl
@[simp] theorem complete_txcnt (s : State) : (s.complete).txcnt = s.txcnt := rfl
@[simp] theorem complete_rxcnt (s : State) : (s.complete).rxcnt = s.rxcnt := rfl
@[simp] theorem complete_txbuf (s : State) : (s.complete).txbuf = s.txbuf := rfl
@[simp] theorem complete_rxbuf (s : State) : (s.complete).rxbuf = s.rxbuf := rfl
@[simp] theorem complete_txseq (s : State) : (s.complete).txseq = s.txseq := rfl
@[simp] theorem complete_txpos (s : State) : (s.complete).txpos = s.txpos := rfl
@[simp] theorem complete_idx (s : State) : (s.complete).idx = s.idx := rfl
@[simp] theorem complete_hidT (s : State) : (s.complete).hidT = s.hidT := rfl
@[simp] theorem complete_hidL (s : State) : (s.complete).hidL = s.hidL := rfl
@[simp] theorem complete_hidE1 (s : State) : (s.complete).hidE1 = s.hidE1 := rfl
@[simp] theorem complete_agenda (s : State) : (s.complete).agenda = s.agenda := rfl
@[simp] theorem complete_rxPending (s : State) : (s.complete).rxPending = s.rxPending := rfl
@[simp] theorem complete_txRoom (s : State) : (s.complete).txRoom = s.txRoom := rfl
@[simp] theorem complete_txOut (s : State) : (s.complete).txOut = s.txOut := rfl
@[simp] theorem complete_rdata (s : State) : (s.complete).rdata = s.rdata := rfl

/-! ### raise -/

@[simp] theorem raise_cfg (e : ErrCode) (s : State) : (s.raise e).cfg = s.cfg := rfl
@[simp] theorem raise_cmd (e : ErrCode) (s : State) : (s.raise e).cmd = s.cmd := rfl
@[simp] theorem raise_busy (e : ErrCode) (s : State) : (s.raise e).busy = false := rfl
@[simp] theorem raise_done (e : ErrCode) (s : State) : (s.raise e).done = true := rfl
@[simp] theorem raise_err (e : ErrCode) (s : State) : (s.raise e).err = e := rfl
@[simp] theorem raise_eom (e : ErrCode) (s : State) : (s.raise e).eom = s.eom := rfl
@[simp] theorem raise_ovr (e : ErrCode) (s : State) : (s.raise e).ovr = s.ovr := rfl
@[simp] theorem raise_escp (e : ErrCode) (s : State) : (s.raise e).escp = false := rfl
@[simp] theorem raise_phase (e : ErrCode) (s : State) : (s.raise e).phase = .idle := rfl
@[simp] theorem raise_result (e : ErrCode) (s : State) : (s.raise e).result = s.result := rfl
@[simp] theorem raise_offset (e : ErrCode) (s : State) : (s.raise e).offset = s.offset := rfl
@[simp] theorem raise_rxtype (e : ErrCode) (s : State) : (s.raise e).rxtype = s.rxtype := rfl
@[simp] theorem raise_rxlen (e : ErrCode) (s : State) : (s.raise e).rxlen = s.rxlen := rfl
@[simp] theorem raise_rxRecv (e : ErrCode) (s : State) : (s.raise e).rxRecv = s.rxRecv := rfl
@[simp] theorem raise_rxCalc (e : ErrCode) (s : State) : (s.raise e).rxCalc = s.rxCalc := rfl
@[simp] theorem raise_skipcnt (e : ErrCode) (s : State) : (s.raise e).skipcnt = s.skipcnt := rfl
@[simp] theorem raise_txcnt (e : ErrCode) (s : State) : (s.raise e).txcnt = s.txcnt := rfl
@[simp] theorem raise_rxcnt (e : ErrCode) (s : State) : (s.raise e).rxcnt = s.rxcnt := rfl
@[simp] theorem raise_txbuf (e : ErrCode) (s : State) : (s.raise e).txbuf = s.txbuf := rfl
@[simp] theorem raise_rxbuf (e : ErrCode) (s : State) : (s.raise e).rxbuf = s.rxbuf := rfl
@[simp] theorem raise_txseq (e : ErrCode) (s : State) : (s.raise e).txseq = s.txseq := rfl
@[simp] theorem raise_txpos (e : ErrCode) (s : State) : (s.raise e).txpos = s.txpos := rfl
@[simp] theorem raise_idx (e : ErrCode) (s : State) : (s.raise e).idx = s.idx := rfl
@[simp] theorem raise_hidT (e : ErrCode) (s : State) : (s.raise e).hidT = s.hidT := rfl
@[simp] theorem raise_hidL (e : ErrCode) (s : State) : (s.raise e).hidL = s.hidL := rfl
@[simp] theorem raise_hidE1 (e : ErrCode) (s : State) : (s.raise e).hidE1 = s.hidE1 := rfl
@[simp] theorem raise_agenda (e : ErrCode) (s : State) : (s.raise e).agenda = s.agenda := rfl
@[simp] theorem raise_rxPending (e : ErrCode) (s : State) : (s.raise e).rxPending = s.rxPending := rfl
@[simp] theorem raise_txRoom (e : ErrCode) (s : State) : (s.raise e).txRoom = s.txRoom := rfl
@[simp] theorem raise_txOut (e : ErrCode) (s : State) : (s.raise e).txOut = s.txOut := rfl
@[simp] theorem raise_rdata (e : ErrCode) (s : State) : (s.raise e).rdata = s.rdata := rfl

/-! ### rejectWord -/

@[simp] theorem rejectWord_cfg (w : Word) (s : State) : (s.rejectWord w).cfg = s.cfg := rfl
@[simp] theorem rejectWord_cmd (w : Word) (s : State) : (s.rejectWord w).cmd = w := rfl
@[simp] theorem rejectWord_busy (w : Word) (s : State) : (s.rejectWord w).busy = false := rfl
@[simp] theorem rejectWord_done (w : Word) (s : State) : (s.rejectWord w).done = true := rfl
@[simp] theorem rejectWord_err (w : Word) (s : State) : (s.rejectWord w).err = .illegalCmd := rfl
@[simp] theorem rejectWord_eom (w : Word) (s : State) : (s.rejectWord w).eom = false := rfl
@[simp] theorem rejectWord_ovr (w : Word) (s : State) : (s.rejectWord w).ovr = s.ovr := rfl
@[simp] theorem rejectWord_escp (w : Word) (s : State) : (s.rejectWord w).escp = false := rfl
@[simp] theorem rejectWord_phase (w : Word) (s : State) : (s.rejectWord w).phase = .idle := rfl
@[simp] theorem rejectWord_result (w : Word) (s : State) : (s.rejectWord w).result = s.result := rfl
@[simp] theorem rejectWord_offset (w : Word) (s : State) : (s.rejectWord w).offset = s.offset := rfl
@[simp] theorem rejectWord_rxtype (w : Word) (s : State) : (s.rejectWord w).rxtype = s.rxtype := rfl
@[simp] theorem rejectWord_rxlen (w : Word) (s : State) : (s.rejectWord w).rxlen = s.rxlen := rfl
@[simp] theorem rejectWord_rxRecv (w : Word) (s : State) : (s.rejectWord w).rxRecv = s.rxRecv := rfl
@[simp] theorem rejectWord_rxCalc (w : Word) (s : State) : (s.rejectWord w).rxCalc = s.rxCalc := rfl
@[simp] theorem rejectWord_skipcnt (w : Word) (s : State) : (s.rejectWord w).skipcnt = 0 := rfl
@[simp] theorem rejectWord_txcnt (w : Word) (s : State) : (s.rejectWord w).txcnt = 0 := rfl
@[simp] theorem rejectWord_rxcnt (w : Word) (s : State) : (s.rejectWord w).rxcnt = 0 := rfl
@[simp] theorem rejectWord_txbuf (w : Word) (s : State) : (s.rejectWord w).txbuf = s.txbuf := rfl
@[simp] theorem rejectWord_rxbuf (w : Word) (s : State) : (s.rejectWord w).rxbuf = s.rxbuf := rfl
@[simp] theorem rejectWord_txseq (w : Word) (s : State) : (s.rejectWord w).txseq = s.txseq := rfl
@[simp] theorem rejectWord_txpos (w : Word) (s : State) : (s.rejectWord w).txpos = s.txpos := rfl
@[simp] theorem rejectWord_idx (w : Word) (s : State) : (s.rejectWord w).idx = s.idx := rfl
@[simp] theorem rejectWord_hidT (w : Word) (s : State) : (s.rejectWord w).hidT = s.hidT := rfl
@[simp] theorem rejectWord_hidL (w : Word) (s : State) : (s.rejectWord w).hidL = s.hidL := rfl
@[simp] theorem rejectWord_hidE1 (w : Word) (s : State) : (s.rejectWord w).hidE1 = s.hidE1 := rfl
@[simp] theorem rejectWord_agenda (w : Word) (s : State) : (s.rejectWord w).agenda = s.agenda := rfl
@[simp] theorem rejectWord_rxPending (w : Word) (s : State) : (s.rejectWord w).rxPending = s.rxPending := rfl
@[simp] theorem rejectWord_txRoom (w : Word) (s : State) : (s.rejectWord w).txRoom = s.txRoom := rfl
@[simp] theorem rejectWord_txOut (w : Word) (s : State) : (s.rejectWord w).txOut = s.txOut := rfl
@[simp] theorem rejectWord_rdata (w : Word) (s : State) : (s.rejectWord w).rdata = s.rdata := rfl

/-! ### start -/

@[simp] theorem start_cfg (p : Phase) (s : State) : (s.start p).cfg = s.cfg := rfl
@[simp] theorem start_cmd (p : Phase) (s : State) : (s.start p).cmd = s.cmd := rfl
@[simp] theorem start_busy (p : Phase) (s : State) : (s.start p).busy = true := rfl
@[simp] theorem start_done (p : Phase) (s : State) : (s.start p).done = s.done := rfl
@[simp] theorem start_err (p : Phase) (s : State) : (s.start p).err = s.err := rfl
@[simp] theorem start_eom (p : Phase) (s : State) : (s.start p).eom = s.eom := rfl
@[simp] theorem start_ovr (p : Phase) (s : State) : (s.start p).ovr = s.ovr := rfl
@[simp] theorem start_escp (p : Phase) (s : State) : (s.start p).escp = s.escp := rfl
@[simp] theorem start_phase (p : Phase) (s : State) : (s.start p).phase = p := rfl
@[simp] theorem start_result (p : Phase) (s : State) : (s.start p).result = s.result := rfl
@[simp] theorem start_offset (p : Phase) (s : State) : (s.start p).offset = s.offset := rfl
@[simp] theorem start_rxtype (p : Phase) (s : State) : (s.start p).rxtype = s.rxtype := rfl
@[simp] theorem start_rxlen (p : Phase) (s : State) : (s.start p).rxlen = s.rxlen := rfl
@[simp] theorem start_rxRecv (p : Phase) (s : State) : (s.start p).rxRecv = s.rxRecv := rfl
@[simp] theorem start_rxCalc (p : Phase) (s : State) : (s.start p).rxCalc = s.rxCalc := rfl
@[simp] theorem start_skipcnt (p : Phase) (s : State) : (s.start p).skipcnt = s.skipcnt := rfl
@[simp] theorem start_txcnt (p : Phase) (s : State) : (s.start p).txcnt = s.txcnt := rfl
@[simp] theorem start_rxcnt (p : Phase) (s : State) : (s.start p).rxcnt = s.rxcnt := rfl
@[simp] theorem start_txbuf (p : Phase) (s : State) : (s.start p).txbuf = s.txbuf := rfl
@[simp] theorem start_rxbuf (p : Phase) (s : State) : (s.start p).rxbuf = s.rxbuf := rfl
@[simp] theorem start_txseq (p : Phase) (s : State) : (s.start p).txseq = s.txseq := rfl
@[simp] theorem start_txpos (p : Phase) (s : State) : (s.start p).txpos = s.txpos := rfl
@[simp] theorem start_idx (p : Phase) (s : State) : (s.start p).idx = s.idx := rfl
@[simp] theorem start_hidT (p : Phase) (s : State) : (s.start p).hidT = s.hidT := rfl
@[simp] theorem start_hidL (p : Phase) (s : State) : (s.start p).hidL = s.hidL := rfl
@[simp] theorem start_hidE1 (p : Phase) (s : State) : (s.start p).hidE1 = s.hidE1 := rfl
@[simp] theorem start_agenda (p : Phase) (s : State) : (s.start p).agenda = s.agenda := rfl
@[simp] theorem start_rxPending (p : Phase) (s : State) : (s.start p).rxPending = s.rxPending := rfl
@[simp] theorem start_txRoom (p : Phase) (s : State) : (s.start p).txRoom = s.txRoom := rfl
@[simp] theorem start_txOut (p : Phase) (s : State) : (s.start p).txOut = s.txOut := rfl
@[simp] theorem start_rdata (p : Phase) (s : State) : (s.start p).rdata = s.rdata := rfl

/-! ### startTx -/

@[simp] theorem startTx_cfg (q : List Byte) (s : State) : (s.startTx q).cfg = s.cfg := rfl
@[simp] theorem startTx_cmd (q : List Byte) (s : State) : (s.startTx q).cmd = s.cmd := rfl
@[simp] theorem startTx_busy (q : List Byte) (s : State) : (s.startTx q).busy = true := rfl
@[simp] theorem startTx_done (q : List Byte) (s : State) : (s.startTx q).done = s.done := rfl
@[simp] theorem startTx_err (q : List Byte) (s : State) : (s.startTx q).err = s.err := rfl
@[simp] theorem startTx_eom (q : List Byte) (s : State) : (s.startTx q).eom = s.eom := rfl
@[simp] theorem startTx_ovr (q : List Byte) (s : State) : (s.startTx q).ovr = s.ovr := rfl
@[simp] theorem startTx_escp (q : List Byte) (s : State) : (s.startTx q).escp = s.escp := rfl
@[simp] theorem startTx_phase (q : List Byte) (s : State) : (s.startTx q).phase = .tx := rfl
@[simp] theorem startTx_result (q : List Byte) (s : State) : (s.startTx q).result = s.result := rfl
@[simp] theorem startTx_offset (q : List Byte) (s : State) : (s.startTx q).offset = s.offset := rfl
@[simp] theorem startTx_rxtype (q : List Byte) (s : State) : (s.startTx q).rxtype = s.rxtype := rfl
@[simp] theorem startTx_rxlen (q : List Byte) (s : State) : (s.startTx q).rxlen = s.rxlen := rfl
@[simp] theorem startTx_rxRecv (q : List Byte) (s : State) : (s.startTx q).rxRecv = s.rxRecv := rfl
@[simp] theorem startTx_rxCalc (q : List Byte) (s : State) : (s.startTx q).rxCalc = s.rxCalc := rfl
@[simp] theorem startTx_skipcnt (q : List Byte) (s : State) : (s.startTx q).skipcnt = s.skipcnt := rfl
@[simp] theorem startTx_txcnt (q : List Byte) (s : State) : (s.startTx q).txcnt = s.txcnt := rfl
@[simp] theorem startTx_rxcnt (q : List Byte) (s : State) : (s.startTx q).rxcnt = s.rxcnt := rfl
@[simp] theorem startTx_txbuf (q : List Byte) (s : State) : (s.startTx q).txbuf = s.txbuf := rfl
@[simp] theorem startTx_rxbuf (q : List Byte) (s : State) : (s.startTx q).rxbuf = s.rxbuf := rfl
@[simp] theorem startTx_txseq (q : List Byte) (s : State) : (s.startTx q).txseq = q := rfl
@[simp] theorem startTx_txpos (q : List Byte) (s : State) : (s.startTx q).txpos = 0 := rfl
@[simp] theorem startTx_idx (q : List Byte) (s : State) : (s.startTx q).idx = s.idx := rfl
@[simp] theorem startTx_hidT (q : List Byte) (s : State) : (s.startTx q).hidT = s.hidT := rfl
@[simp] theorem startTx_hidL (q : List Byte) (s : State) : (s.startTx q).hidL = s.hidL := rfl
@[simp] theorem startTx_hidE1 (q : List Byte) (s : State) : (s.startTx q).hidE1 = s.hidE1 := rfl
@[simp] theorem startTx_agenda (q : List Byte) (s : State) : (s.startTx q).agenda = s.agenda := rfl
@[simp] theorem startTx_rxPending (q : List Byte) (s : State) : (s.startTx q).rxPending = s.rxPending := rfl
@[simp] theorem startTx_txRoom (q : List Byte) (s : State) : (s.startTx q).txRoom = s.txRoom := rfl
@[simp] theorem startTx_txOut (q : List Byte) (s : State) : (s.startTx q).txOut = s.txOut := rfl
@[simp] theorem startTx_rdata (q : List Byte) (s : State) : (s.startTx q).rdata = s.rdata := rfl

/-! ### overrun -/

@[simp] theorem overrun_cfg (s : State) : (s.overrun).cfg = s.cfg := rfl
@[simp] theorem overrun_cmd (s : State) : (s.overrun).cmd = s.cmd := rfl
@[simp] theorem overrun_busy (s : State) : (s.overrun).busy = s.busy := rfl
@[simp] theorem overrun_done (s : State) : (s.overrun).done = s.done := rfl
@[simp] theorem overrun_err (s : State) : (s.overrun).err = s.err := rfl
@[simp] theorem overrun_eom (s : State) : (s.overrun).eom = s.eom := rfl
@[simp] theorem overrun_ovr (s : State) : (s.overrun).ovr = true := rfl
@[simp] theorem overrun_escp (s : State) : (s.overrun).escp = s.escp := rfl
@[simp] theorem overrun_phase (s : State) : (s.overrun).phase = s.phase := rfl
@[simp] theorem overrun_result (s : State) : (s.overrun).result = s.result := rfl
@[simp] theorem overrun_offset (s : State) : (s.overrun).offset = s.offset := rfl
@[simp] theorem overrun_rxtype (s : State) : (s.overrun).rxtype = s.rxtype := rfl
@[simp] theorem overrun_rxlen (s : State) : (s.overrun).rxlen = s.rxlen := rfl
@[simp] theorem overrun_rxRecv (s : State) : (s.overrun).rxRecv = s.rxRecv := rfl
@[simp] theorem overrun_rxCalc (s : State) : (s.overrun).rxCalc = s.rxCalc := rfl
@[simp] theorem overrun_skipcnt (s : State) : (s.overrun).skipcnt = s.skipcnt := rfl
@[simp] theorem overrun_txcnt (s : State) : (s.overrun).txcnt = s.txcnt := rfl
@[simp] theorem overrun_rxcnt (s : State) : (s.overrun).rxcnt = s.rxcnt := rfl
@[simp] theorem overrun_txbuf (s : State) : (s.overrun).txbuf = s.txbuf := rfl
@[simp] theorem overrun_rxbuf (s : State) : (s.overrun).rxbuf = s.rxbuf := rfl
@[simp] theorem overrun_txseq (s : State) : (s.overrun).txseq = s.txseq := rfl
@[simp] theorem overrun_txpos (s : State) : (s.overrun).txpos = s.txpos := rfl
@[simp] theorem overrun_idx (s : State) : (s.overrun).idx = s.idx := rfl
@[simp] theorem overrun_hidT (s : State) : (s.overrun).hidT = s.hidT := rfl
@[simp] theorem overrun_hidL (s : State) : (s.overrun).hidL = s.hidL := rfl
@[simp] theorem overrun_hidE1 (s : State) : (s.overrun).hidE1 = s.hidE1 := rfl
@[simp] theorem overrun_agenda (s : State) : (s.overrun).agenda = s.agenda := rfl
@[simp] theorem overrun_rxPending (s : State) : (s.overrun).rxPending = s.rxPending := rfl
@[simp] theorem overrun_txRoom (s : State) : (s.overrun).txRoom = s.txRoom := rfl
@[simp] theorem overrun_txOut (s : State) : (s.overrun).txOut = s.txOut := rfl
@[simp] theorem overrun_rdata (s : State) : (s.overrun).rdata = s.rdata := rfl

/-! ### txEmit -/

@[simp] theorem txEmit_cfg (b : Byte) (s : State) : (s.txEmit b).cfg = s.cfg := rfl
@[simp] theorem txEmit_cmd (b : Byte) (s : State) : (s.txEmit b).cmd = s.cmd := rfl
@[simp] theorem txEmit_busy (b : Byte) (s : State) : (s.txEmit b).busy = s.busy := rfl
@[simp] theorem txEmit_done (b : Byte) (s : State) : (s.txEmit b).done = s.done := rfl
@[simp] theorem txEmit_err (b : Byte) (s : State) : (s.txEmit b).err = s.err := rfl
@[simp] theorem txEmit_eom (b : Byte) (s : State) : (s.txEmit b).eom = s.eom := rfl
@[simp] theorem txEmit_ovr (b : Byte) (s : State) : (s.txEmit b).ovr = s.ovr := rfl
@[simp] theorem txEmit_escp (b : Byte) (s : State) : (s.txEmit b).escp = s.escp := rfl
@[simp] theorem txEmit_phase (b : Byte) (s : State) : (s.txEmit b).phase = s.phase := rfl
@[simp] theorem txEmit_result (b : Byte) (s : State) : (s.txEmit b).result = s.result := rfl
@[simp] theorem txEmit_offset (b : Byte) (s : State) : (s.txEmit b).offset = s.offset := rfl
@[simp] theorem txEmit_rxtype (b : Byte) (s : State) : (s.txEmit b).rxtype = s.rxtype := rfl
@[simp] theorem txEmit_rxlen (b : Byte) (s : State) : (s.txEmit b).rxlen = s.rxlen := rfl
@[simp] theorem txEmit_rxRecv (b : Byte) (s : State) : (s.txEmit b).rxRecv = s.rxRecv := rfl
@[simp] theorem txEmit_rxCalc (b : Byte) (s : State) : (s.txEmit b).rxCalc = s.rxCalc := rfl
@[simp] theorem txEmit_skipcnt (b : Byte) (s : State) : (s.txEmit b).skipcnt = s.skipcnt := rfl
@[simp] theorem txEmit_txcnt (b : Byte) (s : State) : (s.txEmit b).txcnt = satInc s.txcnt := rfl
@[simp] theorem txEmit_rxcnt (b : Byte) (s : State) : (s.txEmit b).rxcnt = s.rxcnt := rfl
@[simp] theorem txEmit_txbuf (b : Byte) (s : State) : (s.txEmit b).txbuf = s.txbuf := rfl
@[simp] theorem txEmit_rxbuf (b : Byte) (s : State) : (s.txEmit b).rxbuf = s.rxbuf := rfl
@[simp] theorem txEmit_txseq (b : Byte) (s : State) : (s.txEmit b).txseq = s.txseq := rfl
@[simp] theorem txEmit_txpos (b : Byte) (s : State) : (s.txEmit b).txpos = s.txpos := rfl
@[simp] theorem txEmit_idx (b : Byte) (s : State) : (s.txEmit b).idx = s.idx := rfl
@[simp] theorem txEmit_hidT (b : Byte) (s : State) : (s.txEmit b).hidT = s.hidT := rfl
@[simp] theorem txEmit_hidL (b : Byte) (s : State) : (s.txEmit b).hidL = s.hidL := rfl
@[simp] theorem txEmit_hidE1 (b : Byte) (s : State) : (s.txEmit b).hidE1 = s.hidE1 := rfl
@[simp] theorem txEmit_agenda (b : Byte) (s : State) : (s.txEmit b).agenda = s.agenda := rfl
@[simp] theorem txEmit_rxPending (b : Byte) (s : State) : (s.txEmit b).rxPending = s.rxPending := rfl
@[simp] theorem txEmit_txRoom (b : Byte) (s : State) : (s.txEmit b).txRoom = s.txRoom - 1 := rfl
@[simp] theorem txEmit_txOut (b : Byte) (s : State) : (s.txEmit b).txOut = s.txOut ++ [b] := rfl
@[simp] theorem txEmit_rdata (b : Byte) (s : State) : (s.txEmit b).rdata = s.rdata := rfl

/-! ### softReset -/

@[simp] theorem softReset_cfg (s : State) : (s.softReset).cfg = s.cfg := rfl
@[simp] theorem softReset_cmd (s : State) : (s.softReset).cmd = 0 := rfl
@[simp] theorem softReset_busy (s : State) : (s.softReset).busy = false := rfl
@[simp] theorem softReset_done (s : State) : (s.softReset).done = false := rfl
@[simp] theorem softReset_err (s : State) : (s.softReset).err = .none := rfl
@[simp] theorem softReset_eom (s : State) : (s.softReset).eom = false := rfl
@[simp] theorem softReset_ovr (s : State) : (s.softReset).ovr = false := rfl
@[simp] theorem softReset_escp (s : State) : (s.softReset).escp = false := rfl
@[simp] theorem softReset_phase (s : State) : (s.softReset).phase = .idle := rfl
@[simp] theorem softReset_result (s : State) : (s.softReset).result = 0 := rfl
@[simp] theorem softReset_offset (s : State) : (s.softReset).offset = 0 := rfl
@[simp] theorem softReset_rxtype (s : State) : (s.softReset).rxtype = 0 := rfl
@[simp] theorem softReset_rxlen (s : State) : (s.softReset).rxlen = 0 := rfl
@[simp] theorem softReset_rxRecv (s : State) : (s.softReset).rxRecv = 0 := rfl
@[simp] theorem softReset_rxCalc (s : State) : (s.softReset).rxCalc = 0 := rfl
@[simp] theorem softReset_skipcnt (s : State) : (s.softReset).skipcnt = 0 := rfl
@[simp] theorem softReset_txcnt (s : State) : (s.softReset).txcnt = 0 := rfl
@[simp] theorem softReset_rxcnt (s : State) : (s.softReset).rxcnt = 0 := rfl
@[simp] theorem softReset_txbuf (s : State) : (s.softReset).txbuf = s.txbuf := rfl
@[simp] theorem softReset_rxbuf (s : State) : (s.softReset).rxbuf = s.rxbuf := rfl
@[simp] theorem softReset_txseq (s : State) : (s.softReset).txseq = s.txseq := rfl
@[simp] theorem softReset_txpos (s : State) : (s.softReset).txpos = s.txpos := rfl
@[simp] theorem softReset_idx (s : State) : (s.softReset).idx = s.idx := rfl
@[simp] theorem softReset_hidT (s : State) : (s.softReset).hidT = s.hidT := rfl
@[simp] theorem softReset_hidL (s : State) : (s.softReset).hidL = s.hidL := rfl
@[simp] theorem softReset_hidE1 (s : State) : (s.softReset).hidE1 = s.hidE1 := rfl
@[simp] theorem softReset_agenda (s : State) : (s.softReset).agenda = s.agenda := rfl
@[simp] theorem softReset_rxPending (s : State) : (s.softReset).rxPending = s.rxPending := rfl
@[simp] theorem softReset_txRoom (s : State) : (s.softReset).txRoom = s.txRoom := rfl
@[simp] theorem softReset_txOut (s : State) : (s.softReset).txOut = s.txOut := rfl
@[simp] theorem softReset_rdata (s : State) : (s.softReset).rdata = s.rdata := rfl

/-! ### powerOn -/

@[simp] theorem powerOn_cfg (s : State) : (s.powerOn).cfg = s.cfg := rfl
@[simp] theorem powerOn_cmd (s : State) : (s.powerOn).cmd = 0 := rfl
@[simp] theorem powerOn_busy (s : State) : (s.powerOn).busy = false := rfl
@[simp] theorem powerOn_done (s : State) : (s.powerOn).done = false := rfl
@[simp] theorem powerOn_err (s : State) : (s.powerOn).err = .none := rfl
@[simp] theorem powerOn_eom (s : State) : (s.powerOn).eom = false := rfl
@[simp] theorem powerOn_ovr (s : State) : (s.powerOn).ovr = false := rfl
@[simp] theorem powerOn_escp (s : State) : (s.powerOn).escp = false := rfl
@[simp] theorem powerOn_phase (s : State) : (s.powerOn).phase = .idle := rfl
@[simp] theorem powerOn_result (s : State) : (s.powerOn).result = 0 := rfl
@[simp] theorem powerOn_offset (s : State) : (s.powerOn).offset = 0 := rfl
@[simp] theorem powerOn_rxtype (s : State) : (s.powerOn).rxtype = 0 := rfl
@[simp] theorem powerOn_rxlen (s : State) : (s.powerOn).rxlen = 0 := rfl
@[simp] theorem powerOn_rxRecv (s : State) : (s.powerOn).rxRecv = 0 := rfl
@[simp] theorem powerOn_rxCalc (s : State) : (s.powerOn).rxCalc = 0 := rfl
@[simp] theorem powerOn_skipcnt (s : State) : (s.powerOn).skipcnt = 0 := rfl
@[simp] theorem powerOn_txcnt (s : State) : (s.powerOn).txcnt = 0 := rfl
@[simp] theorem powerOn_rxcnt (s : State) : (s.powerOn).rxcnt = 0 := rfl
@[simp] theorem powerOn_txbuf (s : State) : (s.powerOn).txbuf = [] := rfl
@[simp] theorem powerOn_rxbuf (s : State) : (s.powerOn).rxbuf = [] := rfl
@[simp] theorem powerOn_txseq (s : State) : (s.powerOn).txseq = s.txseq := rfl
@[simp] theorem powerOn_txpos (s : State) : (s.powerOn).txpos = s.txpos := rfl
@[simp] theorem powerOn_idx (s : State) : (s.powerOn).idx = s.idx := rfl
@[simp] theorem powerOn_hidT (s : State) : (s.powerOn).hidT = s.hidT := rfl
@[simp] theorem powerOn_hidL (s : State) : (s.powerOn).hidL = s.hidL := rfl
@[simp] theorem powerOn_hidE1 (s : State) : (s.powerOn).hidE1 = s.hidE1 := rfl
@[simp] theorem powerOn_agenda (s : State) : (s.powerOn).agenda = s.agenda := rfl
@[simp] theorem powerOn_rxPending (s : State) : (s.powerOn).rxPending = s.rxPending := rfl
@[simp] theorem powerOn_txRoom (s : State) : (s.powerOn).txRoom = s.txRoom := rfl
@[simp] theorem powerOn_txOut (s : State) : (s.powerOn).txOut = s.txOut := rfl
@[simp] theorem powerOn_rdata (s : State) : (s.powerOn).rdata = s.rdata := rfl

end Sys2Proof.Machine
end

