-- ==== Sys2Proof/Laws/Ops.lean ====
section
/-! SUPPORT. For each shared operation, one lemma that says everything it can do. -/

namespace Sys2Proof.Machine

/-- Everything rx_raw can do. -/
theorem rxRaw_cases (s : State) :
    (s.rxPending = [] ∧ s.rxRaw = .wait) ∨
    (∃ es, s.rxPending = .timeout :: es ∧
      s.rxRaw = .failed .rxTimeout { s with rxPending := es }) ∨
    (∃ b es, s.rxPending = .byte b :: es ∧
      s.rxRaw = .got b { s with rxPending := es, rxcnt := satInc s.rxcnt }) := by
  unfold State.rxRaw
  cases h : s.rxPending with
  | nil => exact .inl ⟨rfl, rfl⟩
  | cons e es =>
    cases e with
    | timeout => exact .inr (.inl ⟨es, rfl, rfl⟩)
    | byte b => exact .inr (.inr ⟨b, es, rfl, rfl⟩)

theorem rxRaw_nil (s : State) (h : s.rxPending = []) : s.rxRaw = .wait := by
  simp [State.rxRaw, h]

theorem rxRaw_timeout (s : State) (es : List RxEvent) (h : s.rxPending = .timeout :: es) :
    s.rxRaw = .failed .rxTimeout { s with rxPending := es } := by
  simp [State.rxRaw, h]

theorem rxRaw_byte (s : State) (b : Byte) (es : List RxEvent) (h : s.rxPending = .byte b :: es) :
    s.rxRaw = .got b { s with rxPending := es, rxcnt := satInc s.rxcnt } := by
  simp [State.rxRaw, h]

theorem unesc_nil (s : State) (h : s.rxPending = []) : s.unesc = .wait := by
  simp [State.unesc, rxRaw_nil s h]

theorem unesc_timeout (s : State) (es : List RxEvent) (h : s.rxPending = .timeout :: es) :
    s.unesc = .failed .rxTimeout { s with rxPending := es } := by
  simp [State.unesc, rxRaw_timeout s es h]

/-- The first marker of a pair asks for a second step. -/
theorem unesc_first_marker (s : State) (es : List RxEvent) (h : s.rxPending = .byte marker :: es)
    (he : s.escp = false) :
    s.unesc = .more { s with rxPending := es, rxcnt := satInc s.rxcnt, escp := true } := by
  simp [State.unesc, rxRaw_byte s marker es h, State.unescByte, he]

/-- A marker followed by another byte raises. -/
theorem unesc_lone_marker (s : State) (b : Byte) (es : List RxEvent)
    (h : s.rxPending = .byte b :: es) (he : s.escp = true) (hb : b ≠ marker) :
    s.unesc = .failed .framingDesync
      { s with rxPending := es, rxcnt := satInc s.rxcnt, escp := false } := by
  simp [State.unesc, rxRaw_byte s b es h, State.unescByte, he, hb]

/-- The last wire byte of an escaped byte gives its value. -/
theorem unesc_arrives (s : State) (b v : Byte) (es : List RxEvent)
    (h : s.rxPending = .byte b :: es) (ha : arrives s b v) :
    s.unesc = .got v { s with rxPending := es, rxcnt := satInc s.rxcnt, escp := false } := by
  rcases ha with ⟨he, hb, rfl⟩ | ⟨he, rfl, rfl⟩
  · simp [State.unesc, rxRaw_byte s v es h, State.unescByte, he, hb]
  · simp [State.unesc, rxRaw_byte s marker es h, State.unescByte, he]

/-- Everything one engine step of unesc can do. -/
theorem unesc_cases (s : State) :
    (s.rxPending = [] ∧ s.unesc = .wait) ∨
    (∃ es, s.rxPending = .timeout :: es ∧
      s.unesc = .failed .rxTimeout { s with rxPending := es }) ∨
    (∃ es, s.rxPending = .byte marker :: es ∧ s.escp = false ∧
      s.unesc = .more { s with rxPending := es, rxcnt := satInc s.rxcnt, escp := true }) ∨
    (∃ b es, s.rxPending = .byte b :: es ∧ s.escp = true ∧ b ≠ marker ∧
      s.unesc = .failed .framingDesync
        { s with rxPending := es, rxcnt := satInc s.rxcnt, escp := false }) ∨
    (∃ b v es, s.rxPending = .byte b :: es ∧ arrives s b v ∧
      s.unesc = .got v { s with rxPending := es, rxcnt := satInc s.rxcnt, escp := false }) := by
  cases h : s.rxPending with
  | nil => exact .inl ⟨rfl, unesc_nil s h⟩
  | cons e es =>
    cases e with
    | timeout => exact .inr (.inl ⟨es, rfl, unesc_timeout s es h⟩)
    | byte b =>
      by_cases hb : b = marker <;> cases he : s.escp
      · subst hb; exact .inr (.inr (.inl ⟨es, rfl, rfl, unesc_first_marker s es h he⟩))
      · subst hb
        have ha : arrives s marker marker := .inr ⟨he, rfl, rfl⟩
        exact .inr (.inr (.inr (.inr ⟨_, _, es, rfl, ha, unesc_arrives s _ _ es h ha⟩)))
      · have ha : arrives s b b := .inl ⟨he, hb, rfl⟩
        exact .inr (.inr (.inr (.inr ⟨_, _, es, rfl, ha, unesc_arrives s _ _ es h ha⟩)))
      · exact .inr (.inr (.inr (.inl ⟨b, es, rfl, rfl, hb, unesc_lone_marker s b es h he hb⟩)))

@[simp] theorem andThen_wait (s : State) (k : Byte → State → Host.Outcome State Fault Refusal) :
    Recv.wait.andThen s k = .next s := rfl

@[simp] theorem andThen_more (s u : State) (k : Byte → State → Host.Outcome State Fault Refusal) :
    (Recv.more u).andThen s k = .next u := rfl

@[simp] theorem andThen_got (s u : State) (b : Byte)
    (k : Byte → State → Host.Outcome State Fault Refusal) :
    (Recv.got b u).andThen s k = k b u := rfl

@[simp] theorem andThen_failed (s u : State) (e : ErrCode)
    (k : Byte → State → Host.Outcome State Fault Refusal) :
    (Recv.failed e u).andThen s k = .next (u.raise e) := rfl

/-- Everything the transmit step can do: it waits, emits, emits and completes, or completes. -/
theorem txStep_cases (s : State) :
    (s.txStep = s ∧ (s.txpos < s.txseq.length ∧ s.txRoom = 0 ∨ s.txseq.length < s.txpos)) ∨
    (∃ b, s.txseq[s.txpos]? = some b ∧ 0 < s.txRoom ∧ s.txpos + 1 < s.txseq.length ∧
      s.txStep = { s.txEmit b with txpos := s.txpos + 1 }) ∨
    (∃ b, s.txseq[s.txpos]? = some b ∧ 0 < s.txRoom ∧ s.txpos + 1 = s.txseq.length ∧
      s.txStep = ({ s.txEmit b with txpos := s.txpos + 1 } : State).complete) ∨
    (s.txpos = s.txseq.length ∧ s.txStep = s.complete) := by
  unfold State.txStep
  cases h : s.txseq[s.txpos]? with
  | some b =>
    have hlt : s.txpos < s.txseq.length := (List.getElem?_eq_some_iff.mp h).1
    by_cases hr : s.txRoom = 0
    · exact .inl ⟨by simp [hr], .inl ⟨hlt, hr⟩⟩
    · by_cases hl : s.txpos + 1 = s.txseq.length
      · exact .inr (.inr (.inl ⟨b, rfl, by omega, hl, by simp [hr, hl]⟩))
      · exact .inr (.inl ⟨b, rfl, by omega, by omega, by simp [hr, hl]⟩)
  | none =>
    have hge : s.txseq.length ≤ s.txpos := List.getElem?_eq_none_iff.mp h
    by_cases hl : s.txpos = s.txseq.length
    · exact .inr (.inr (.inr ⟨hl, by simp [hl]⟩))
    · exact .inl ⟨by simp [hl], .inr (by omega)⟩

/-- The operand of a command whose TXBUF bytes are all written. -/
theorem withOperand_of_holds (s : State) (n : Byte) (bs : List Byte)
    (k : List Byte → Host.Outcome State Fault Refusal) (hl : bs.length = n.toNat)
    (h : holds s.txbuf bs) : s.withOperand n k = k bs := by
  simp [State.withOperand, State.txBytes, range_of_holds s.txbuf bs n.toNat hl h]

/-- Everything an operand can do: it is there, or the command faults. -/
theorem withOperand_cases (s : State) (n : Byte)
    (k : List Byte → Host.Outcome State Fault Refusal) :
    (∃ bs, bs.length = n.toNat ∧ holds s.txbuf bs ∧ s.withOperand n k = k bs) ∨
    ((∃ j, j < n.toNat ∧ s.txbuf.read j = none) ∧ s.withOperand n k = .fault .unwrittenOperand) := by
  unfold State.withOperand State.txBytes
  cases h : s.txbuf.range 0 n.toNat with
  | some bs =>
    obtain ⟨hl, hh⟩ := holds_of_range _ _ _ h
    exact .inl ⟨bs, hl, hh, rfl⟩
  | none =>
    obtain ⟨j, hj, hr⟩ := (range_eq_none_iff _ _ _).mp h
    exact .inr ⟨⟨j, hj, by simpa using hr⟩, rfl⟩

/-- The payload a PARSE checks, where it is written. -/
theorem rxBytes_of_holds (s : State) (l : Byte) (p : List Byte) (hl : p.length = l.toNat)
    (h : holds s.rxbuf p) : s.rxBytes l = some p := range_of_holds s.rxbuf p l.toNat hl h

end Sys2Proof.Machine
end

