-- ==== Sys2Proof/Laws/Window.lean ====
section
/-! SUPPORT. What an access of the window reaches, and what each register write leaves. -/

namespace Sys2Proof.Machine

/-- An aligned word access inside the window reaches the register at its offset. -/
theorem reach_word (c : Config) (off : Nat) (hlt : off < windowBytes) (h4 : off % 4 = 0) :
    windowReach c .word (c.bscBase + off) = .reg (Reg.ofOffset off) := by
  have h1 : ¬(c.bscBase + off < c.bscBase ∨ c.bscBase + windowBytes ≤ c.bscBase + off) := by omega
  have h2 : ¬(AccessSize.word ≠ .word ∨ (c.bscBase + off - c.bscBase) % 4 ≠ 0) := by simpa using h4
  unfold windowReach
  rw [if_neg h1, if_neg h2, Nat.add_sub_cancel_left]

theorem reach_base (c : Config) : windowReach c .word c.bscBase = .reg .cmd := by
  exact reach_word c 0 (by decide) rfl

/-- Another access inside the window is undefined. -/
theorem reach_undefined (c : Config) (size : AccessSize) (off : Nat) (hlt : off < windowBytes)
    (h : size ≠ .word ∨ off % 4 ≠ 0) : windowReach c size (c.bscBase + off) = .undefined := by
  have h1 : ¬(c.bscBase + off < c.bscBase ∨ c.bscBase + windowBytes ≤ c.bscBase + off) := by omega
  have h2 : size ≠ .word ∨ (c.bscBase + off - c.bscBase) % 4 ≠ 0 := by simpa using h
  simp only [windowReach, h1, h2, if_true, if_false]

theorem reach_outside (c : Config) (size : AccessSize) (addr : Nat)
    (h : addr < c.bscBase ∨ c.bscBase + windowBytes ≤ addr) :
    windowReach c size addr = .outside := by simp [windowReach, h]

/-- Everything an access can reach. -/
theorem reach_cases (c : Config) (size : AccessSize) (addr : Nat) :
    windowReach c size addr = .outside ∨ windowReach c size addr = .undefined ∨
    ∃ off, off < windowBytes ∧ off % 4 = 0 ∧ addr = c.bscBase + off ∧ size = .word ∧
      windowReach c size addr = .reg (Reg.ofOffset off) := by
  unfold windowReach
  split
  · exact .inl rfl
  · split
    · exact .inr (.inl rfl)
    · next h1 h2 =>
      refine .inr (.inr ⟨addr - c.bscBase, by omega, ?_, by omega, ?_, rfl⟩)
      · by_contra h; exact h2 (.inr h)
      · by_contra h; exact h2 (.inl h)

theorem ofOffset_txbuf (i : Nat) (h : i < 256) : Reg.ofOffset (0x400 + 4 * i) = .txbuf i := by
  have h1 : (0x400 + 4 * i) / 0x400 = 1 := by omega
  have h2 : (0x400 + 4 * i) % 0x400 / 4 = i := by omega
  rw [Reg.ofOffset, if_pos h1, h2]

theorem ofOffset_rxbuf (i : Nat) (h : i < 256) : Reg.ofOffset (0x800 + 4 * i) = .rxbuf i := by
  have h0 : (0x800 + 4 * i) / 0x400 ≠ 1 := by omega
  have h1 : (0x800 + 4 * i) / 0x400 = 2 := by omega
  have h2 : (0x800 + 4 * i) % 0x400 / 4 = i := by omega
  rw [Reg.ofOffset, if_neg h0, if_pos h1, h2]

/-- A reserved offset (spec 10_state R22). -/
theorem ofOffset_reserved (off : Nat) (h : 0x030 ≤ off ∧ off < 0x400 ∨ 0xC00 ≤ off) :
    Reg.ofOffset off = .reserved := by
  have h0 : off / 0x400 ≠ 1 := by omega
  have h1 : off / 0x400 ≠ 2 := by omega
  have h2 : controlRegs.length ≤ off / 4 := by simp only [controlRegs, List.length]; omega
  rw [Reg.ofOffset, if_neg h0, if_neg h1, List.getElem?_eq_none h2]
  rfl

/-- An offset outside the buffers names a control register, or is reserved. -/
theorem ofOffset_control (off : Nat) (h : off < 0x400 ∨ 0xC00 ≤ off) :
    Reg.ofOffset off = (controlRegs[off / 4]?).getD .reserved := by
  have h0 : off / 0x400 ≠ 1 := by omega
  have h1 : off / 0x400 ≠ 2 := by omega
  rw [Reg.ofOffset, if_neg h0, if_neg h1]

/-- Everything an aligned offset can name, by where it lies. -/
theorem ofOffset_cases (off : Nat) (h4 : off % 4 = 0) :
    (off = 0x000 ∧ Reg.ofOffset off = .cmd) ∨ (off = 0x004 ∧ Reg.ofOffset off = .status) ∨
    (off = 0x008 ∧ Reg.ofOffset off = .ctrl) ∨ (off = 0x00C ∧ Reg.ofOffset off = .result) ∨
    (off = 0x010 ∧ Reg.ofOffset off = .offset) ∨ (off = 0x014 ∧ Reg.ofOffset off = .rxtype) ∨
    (off = 0x018 ∧ Reg.ofOffset off = .rxlen) ∨ (off = 0x01C ∧ Reg.ofOffset off = .rxcksum) ∨
    (off = 0x020 ∧ Reg.ofOffset off = .skipcnt) ∨ (off = 0x024 ∧ Reg.ofOffset off = .txcnt) ∨
    (off = 0x028 ∧ Reg.ofOffset off = .rxcnt) ∨ (off = 0x02C ∧ Reg.ofOffset off = .param) ∨
    (∃ i, i < 256 ∧ off = 0x400 + 4 * i ∧ Reg.ofOffset off = .txbuf i) ∨
    (∃ i, i < 256 ∧ off = 0x800 + 4 * i ∧ Reg.ofOffset off = .rxbuf i) ∨
    ((0x030 ≤ off ∧ off < 0x400 ∨ 0xC00 ≤ off) ∧ Reg.ofOffset off = .reserved) := by
  by_cases htx : 0x400 ≤ off ∧ off < 0x800
  · obtain ⟨i, rfl⟩ : ∃ i, off = 0x400 + 4 * i := ⟨(off - 0x400) / 4, by omega⟩
    have hi : i < 256 := by omega
    simp only [ofOffset_txbuf i hi]
    right; right; right; right; right; right; right; right; right; right; right; right
    exact .inl ⟨i, hi, rfl, rfl⟩
  · by_cases hrx : 0x800 ≤ off ∧ off < 0xC00
    · obtain ⟨i, rfl⟩ : ∃ i, off = 0x800 + 4 * i := ⟨(off - 0x800) / 4, by omega⟩
      have hi : i < 256 := by omega
      simp only [ofOffset_rxbuf i hi]
      right; right; right; right; right; right; right; right; right; right; right; right; right
      exact .inl ⟨i, hi, rfl, rfl⟩
    · by_cases hres : 0x030 ≤ off ∧ off < 0x400 ∨ 0xC00 ≤ off
      · right; right; right; right; right; right; right; right; right; right; right; right; right; right
        exact ⟨hres, ofOffset_reserved off hres⟩
      · obtain ⟨k, rfl⟩ : ∃ k, off = 4 * k := ⟨off / 4, by omega⟩
        have hk : k < 12 := by omega
        clear h4 htx hrx hres
        interval_cases k <;> simp [Reg.ofOffset, controlRegs]

/-- Only offset 0 is CMD. -/
theorem ofOffset_ne_cmd (off : Nat) (h4 : off % 4 = 0) (h0 : off ≠ 0) :
    Reg.ofOffset off ≠ .cmd := by
  rcases ofOffset_cases off h4 with h | h | h | h | h | h | h | h | h | h | h | h | h | h | h
  · exact absurd h.1 h0
  all_goals first
    | (rw [h.2]; exact Reg.noConfusion)
    | (obtain ⟨i, -, -, hr⟩ := h; rw [hr]; exact Reg.noConfusion)

/-- A register write leaves the environment and the hidden fields as they are. -/
theorem writeReg_frame (s : State) (r : Reg) (data : Word) :
    (s.writeReg r data).cfg = s.cfg ∧ (s.writeReg r data).agenda = s.agenda ∧
    (s.writeReg r data).rxPending = s.rxPending ∧ (s.writeReg r data).txRoom = s.txRoom ∧
    (s.writeReg r data).txOut = s.txOut ∧ (s.writeReg r data).rdata = s.rdata ∧
    (s.writeReg r data).rxbuf = s.rxbuf ∧ (s.writeReg r data).txseq = s.txseq ∧
    (s.writeReg r data).txpos = s.txpos ∧ (s.writeReg r data).idx = s.idx ∧
    (s.writeReg r data).hidT = s.hidT ∧ (s.writeReg r data).hidL = s.hidL ∧
    (s.writeReg r data).hidE1 = s.hidE1 := by
  unfold State.writeReg State.writeStatus State.writeCtrl State.writeOffset State.writeTxbuf
  cases r <;> simp only [] <;> (try split) <;> simp

/-- What a register write can be: nothing, OVR cleared, OVR set while busy, a soft reset, an operand
stored while idle. -/
theorem writeReg_cases (s : State) (r : Reg) (data : Word) :
    s.writeReg r data = s ∨
    (r = .status ∧ data.getLsbD 9 = true ∧ s.writeReg r data = { s with ovr := false }) ∨
    (r = .ctrl ∧ data.getLsbD 0 = true ∧ s.writeReg r data = s.softReset) ∨
    (s.busy = true ∧ (r = .offset ∨ ∃ i, r = .txbuf i) ∧ s.writeReg r data = s.overrun) ∨
    (s.busy = false ∧ r = .offset ∧ s.writeReg r data = { s with offset := data }) ∨
    (s.busy = false ∧ ∃ i, r = .txbuf i ∧
      s.writeReg r data = { s with txbuf := s.txbuf.write i (data.setWidth 8) }) := by
  cases r <;>
    simp only [State.writeReg, State.writeStatus, State.writeCtrl, State.writeOffset,
      State.writeTxbuf, true_or]
  case status => cases h : data.getLsbD 9 <;> simp
  case ctrl => cases h : data.getLsbD 0 <;> simp
  case offset => cases h : s.busy <;> simp
  case txbuf i => cases h : s.busy <;> simp

end Sys2Proof.Machine
end

