-- ==== Sys2Proof/Laws/Step.lean ====
section
/-! SUPPORT. The step by the turn that stands first in the agenda, and runs of several steps. -/

namespace Sys2Proof.Machine

/-- With no turn listed the engine moves. -/
theorem step_nil (s : State) (h : s.agenda = []) : step s = s.engineTurn := by
  simp [step, State.nextTurn, h]

/-- Otherwise the first turn is taken off the agenda and performed. -/
theorem step_cons (s : State) (a : Action) (rest : List Action) (h : s.agenda = a :: rest) :
    step s = ({ s with agenda := rest } : State).turn a := by
  simp [step, State.nextTurn, h]

/-- The engine's turn runs the command CMD holds. -/
theorem engineTurn_busy (s : State) (i : Instr) (hb : s.busy = true) (hd : decode s.cmd = .ok i) :
    s.engineTurn = exec i s := by simp [State.engineTurn, hb, hd]

theorem engineTurn_idle (s : State) (hb : s.busy = false) : s.engineTurn = .next s := by
  simp [State.engineTurn, hb]

/-- A host write of CMD with BUSY = 0 runs the command of its word. -/
theorem writeCmd_idle (s : State) (w : Word) (i : Instr) (hb : s.busy = false)
    (hd : decode w = .ok i) : s.writeCmd w = exec i s := by simp [State.writeCmd, hb, hd]

theorem writeCmd_busy (s : State) (w : Word) (hb : s.busy = true) :
    s.writeCmd w = .next s.overrun := by simp [State.writeCmd, hb]

theorem writeCmd_illegal (s : State) (w : Word) (e : DecodeError) (hb : s.busy = false)
    (hd : decode w = .error e) : s.writeCmd w = .next (s.rejectWord w) := by
  simp [State.writeCmd, hb, hd]

/-- A defined write of a register other than CMD. -/
theorem hostWrite_reg (s : State) (off : Nat) (data : Word) (hlt : off < windowBytes)
    (h4 : off % 4 = 0) (h0 : off ≠ 0) :
    s.hostWrite .word (s.cfg.bscBase + off) data = .next (s.writeReg (Reg.ofOffset off) data) := by
  have hr := reach_word s.cfg off hlt h4
  have hne : Reg.ofOffset off ≠ .cmd := ofOffset_ne_cmd off h4 h0
  unfold State.hostWrite
  rw [hr]
  split <;> simp_all

theorem hostWrite_cmd (s : State) (data : Word) :
    s.hostWrite .word s.cfg.bscBase data = s.writeCmd data := by
  unfold State.hostWrite
  rw [reach_base]

/-- Everything a host write can do. -/
theorem hostWrite_cases (s : State) (size : AccessSize) (addr : Nat) (data : Word) :
    s.hostWrite size addr data = .fault .outsideWindow ∨
    s.hostWrite size addr data = .refused .undefinedAccess ∨
    (size = .word ∧ addr = s.cfg.bscBase ∧ s.hostWrite size addr data = s.writeCmd data) ∨
    (∃ off, off < windowBytes ∧ off % 4 = 0 ∧ off ≠ 0 ∧ size = .word ∧ addr = s.cfg.bscBase + off ∧
      s.hostWrite size addr data = .next (s.writeReg (Reg.ofOffset off) data)) := by
  rcases reach_cases s.cfg size addr with h | h | ⟨off, hlt, h4, rfl, rfl, h⟩
  · exact .inl (by simp [State.hostWrite, h])
  · exact .inr (.inl (by simp [State.hostWrite, h]))
  · by_cases h0 : off = 0
    · subst h0
      exact .inr (.inr (.inl ⟨rfl, by simp, by simpa using hostWrite_cmd s data⟩))
    · exact .inr (.inr (.inr ⟨off, hlt, h4, h0, rfl, rfl, hostWrite_reg s off data hlt h4 h0⟩))

/-- A defined read of a register that has a value. -/
theorem hostRead_reg (s : State) (off : Nat) (v : Word) (hlt : off < windowBytes)
    (h4 : off % 4 = 0) (hv : s.readReg (Reg.ofOffset off) = some v) :
    s.hostRead .word (s.cfg.bscBase + off) = .next { s with rdata := some v } := by
  simp [State.hostRead, reach_word s.cfg off hlt h4, hv]

/-- Everything a host read can do. -/
theorem hostRead_cases (s : State) (size : AccessSize) (addr : Nat) :
    s.hostRead size addr = .fault .outsideWindow ∨
    s.hostRead size addr = .refused .undefinedAccess ∨
    s.hostRead size addr = .fault .unwrittenRead ∨
    ∃ v, s.hostRead size addr = .next { s with rdata := some v } := by
  unfold State.hostRead
  split
  · exact .inl rfl
  · exact .inr (.inl rfl)
  · split
    · exact .inr (.inr (.inr ⟨_, rfl⟩))
    · exact .inr (.inr (.inl rfl))

@[simp] theorem runFor_zero (s : State) : runFor 0 s = .next s := rfl

theorem runFor_succ (n : Nat) (s t : State) (h : step s = .next t) :
    runFor (n + 1) s = runFor n t := by simp [runFor, h]

/-- A run cut in two. -/
theorem runFor_add (m n : Nat) (s t : State) (h : runFor m s = .next t) :
    runFor (m + n) s = runFor n t := by
  induction m generalizing s with
  | zero => simp only [runFor_zero, Host.Outcome.next.injEq] at h; subst h; simp
  | succ m ih =>
    rw [Nat.succ_add]
    cases hs : step s with
    | next u =>
      rw [runFor_succ _ s u hs] at h ⊢
      exact ih u h
    | fault f => simp [runFor, hs] at h
    | refused r => simp [runFor, hs] at h

end Sys2Proof.Machine
end

