-- ==== Sys2Proof/Laws/Cases.lean ====
section
/-! SUPPORT. What a command's step and a step of the machine can do, said once: from an answered next
state back to the case it came from. -/

namespace Sys2Proof.Machine

/-- A raw receive step that answers a next state waited, timed out, or went on with a byte. -/
theorem rxRaw_andThen_cases (s t : State) (k : Byte → State → Host.Outcome State Fault Refusal)
    (h : s.rxRaw.andThen s k = .next t) :
    t = s ∨
    (∃ es, s.rxPending = .timeout :: es ∧
      t = ({ s with rxPending := es } : State).raise .rxTimeout) ∨
    (∃ b es, s.rxPending = .byte b :: es ∧
      k b { s with rxPending := es, rxcnt := satInc s.rxcnt } = .next t) := by
  rcases rxRaw_cases s with ⟨_, e⟩ | ⟨es, hr, e⟩ | ⟨b, es, hr, e⟩ <;> rw [e] at h <;> simp at h
  · exact .inl h.symm
  · exact .inr (.inl ⟨es, hr, h.symm⟩)
  · exact .inr (.inr ⟨b, es, hr, h⟩)

/-- An escaped receive step that answers a next state waited, timed out, took the first marker of a
pair, desynchronised, or went on with a value. -/
theorem unesc_andThen_cases (s t : State) (k : Byte → State → Host.Outcome State Fault Refusal)
    (h : s.unesc.andThen s k = .next t) :
    t = s ∨
    (∃ es, s.rxPending = .timeout :: es ∧
      t = ({ s with rxPending := es } : State).raise .rxTimeout) ∨
    (∃ es, s.rxPending = .byte marker :: es ∧ s.escp = false ∧
      t = { s with rxPending := es, rxcnt := satInc s.rxcnt, escp := true }) ∨
    (∃ b es, s.rxPending = .byte b :: es ∧ s.escp = true ∧ b ≠ marker ∧
      t = ({ s with rxPending := es, rxcnt := satInc s.rxcnt, escp := false } : State).raise
        .framingDesync) ∨
    (∃ b v es, s.rxPending = .byte b :: es ∧ arrives s b v ∧
      k v { s with rxPending := es, rxcnt := satInc s.rxcnt, escp := false } = .next t) := by
  rcases unesc_cases s with ⟨_, e⟩ | ⟨es, hr, e⟩ | ⟨es, hr, h2, e⟩ | ⟨b, es, hr, h2, h3, e⟩ |
    ⟨b, v, es, hr, h2, e⟩ <;> rw [e] at h <;> simp at h
  · exact .inl h.symm
  · exact .inr (.inl ⟨es, hr, h.symm⟩)
  · exact .inr (.inr (.inl ⟨es, hr, h2, h.symm⟩))
  · exact .inr (.inr (.inr (.inl ⟨b, es, hr, h2, h3, h.symm⟩)))
  · exact .inr (.inr (.inr (.inr ⟨b, v, es, hr, h2, h⟩)))

/-- PARSE's checksum step answers a next state only over a written payload: it agrees, or it raises. -/
theorem parseCksum_cases (c : Byte) (s t : State) (h : parseCksum c s = .next t) :
    ∃ p, s.rxBytes s.hidL = some p ∧
      ((c = checksum (s.hidT :: s.hidL :: p) ∧
          t = { s with rxRecv := c, rxCalc := c, phase := .end1 }) ∨
        (c ≠ checksum (s.hidT :: s.hidL :: p) ∧
          t = ({ s with rxRecv := c, rxCalc := checksum (s.hidT :: s.hidL :: p) } : State).raise
            .checksumMismatch)) := by
  unfold parseCksum at h
  split at h
  · cases h
  next p hp =>
  refine ⟨p, hp, ?_⟩
  dsimp only at h
  split at h
  · next hc => cases h; exact .inr ⟨hc, rfl⟩
  · next hc =>
    cases h
    simp only [ne_eq, Decidable.not_not] at hc
    exact .inl ⟨hc, by rw [← hc]⟩

/-- The engine's turn in a transmit command waits, emits, emits the last byte, or completes. -/
theorem txTurn_cases (s : State) :
    s.txTurn = s ∨
    (∃ b, s.txseq[s.txpos]? = some b ∧ s.txTurn = { s.txEmit b with txpos := s.txpos + 1 }) ∨
    (∃ b, s.txseq[s.txpos]? = some b ∧
      s.txTurn = ({ s.txEmit b with txpos := s.txpos + 1 } : State).complete) ∨
    s.txTurn = s.complete := by
  unfold State.txTurn
  split
  · rcases txStep_cases s with ⟨e, _⟩ | ⟨b, hb, _, _, e⟩ | ⟨b, hb, _, _, e⟩ | ⟨_, e⟩
    · exact .inl e
    · exact .inr (.inl ⟨b, hb, e⟩)
    · exact .inr (.inr (.inl ⟨b, hb, e⟩))
    · exact .inr (.inr (.inr e))
  · exact .inl rfl

/-- The commands that transmit. -/
def Transmit (i : Instr) : Prop := ∃ ty len, i = .esc ty len ∨ i = .frame ty len ∨ i = .chunk ty len

/-- Where exec's next state can come from. -/
inductive ExecCase (s : State) : Instr → State → Prop where
  /-- The engine's turn in a transmit command. -/
  | tx {i : Instr} (hi : Transmit i) (hb : s.busy = true) : ExecCase s i s.txTurn
  | escAccept (ty len : Byte) (bs : List Byte) (hl : bs.length = len.toNat) (hh : holds s.txbuf bs)
      (hb : s.busy = false) :
      ExecCase s (.esc ty len) ((s.accept (encode (.esc ty len))).startTx (escape bs))
  | frameAccept (ty len : Byte) (bs : List Byte) (hl : bs.length = len.toNat)
      (hh : holds s.txbuf bs) (hb : s.busy = false) :
      ExecCase s (.frame ty len)
        ((s.accept (encode (.frame ty len))).startTx (encodeFrame s.cfg.lenStuffedOnTx ty len bs))
  | chunkAccept (ty len : Byte) (bs : List Byte) (hn : len.toNat ≤ chunkMax)
      (hl : bs.length = len.toNat) (hh : holds s.txbuf bs) (hb : s.busy = false) :
      ExecCase s (.chunk ty len)
        ((s.accept (encode (.chunk ty len))).startTx
          (encodeFrame s.cfg.lenStuffedOnTx ty (len + 4) (le32 s.offset ++ bs)))
  /-- CHUNK over its limit. -/
  | range (ty len : Byte) (hn : chunkMax < len.toNat) (hb : s.busy = false) :
      ExecCase s (.chunk ty len) ((s.accept (encode (.chunk ty len))).raise .lenRange)
  | calc (ty len : Byte) (bs : List Byte) (hl : bs.length = len.toNat) (hh : holds s.txbuf bs)
      (hp : s.phase = .calc) (hb : s.busy = true) :
      ExecCase s (.cksum ty len) ({ s with result := checksum bs } : State).complete
  | calcAccept (ty len : Byte) (bs : List Byte) (hl : bs.length = len.toNat) (hh : holds s.txbuf bs)
      (hb : s.busy = false) :
      ExecCase s (.cksum ty len) ((s.accept (encode (.cksum ty len))).start .calc)
  | unesc (ty len : Byte) (t : State) (hp : s.phase = .unesc) (hb : s.busy = true)
      (h : (s.unesc.andThen s fun b u => .next ({ u with result := b } : State).complete) = .next t) :
      ExecCase s (.unesc ty len) t
  | unescAccept (ty len : Byte) (hb : s.busy = false) :
      ExecCase s (.unesc ty len) ((s.accept (encode (.unesc ty len))).start .unesc)
  | parse (ty len : Byte) (t : State) (hb : s.busy = true) (h : s.parseTurn = .next t) :
      ExecCase s (.parse ty len) t
  | parseAccept (ty len : Byte) (hb : s.busy = false) :
      ExecCase s (.parse ty len) ((s.accept (encode (.parse ty len))).start .hunt)
  /-- A phase that is not the command's: no step. -/
  | calcIdle (ty len : Byte) (hp : s.phase ≠ .calc) (hb : s.busy = true) :
      ExecCase s (.cksum ty len) s
  | unescIdle (ty len : Byte) (hp : s.phase ≠ .unesc) (hb : s.busy = true) :
      ExecCase s (.unesc ty len) s

/-- Everything exec can do when it answers a next state. -/
theorem exec_cases (s t : State) (i : Instr) (h : exec i s = .next t) : ExecCase s i t := by
  have operand (n : Byte) (k : List Byte → State)
      (h : (s.withOperand n fun bs => .next (k bs)) = .next t) :
      ∃ bs, bs.length = n.toNat ∧ holds s.txbuf bs ∧ t = k bs := by
    rcases withOperand_cases s n (fun bs => .next (k bs)) with ⟨bs, hl, hh, e⟩ | ⟨_, e⟩ <;>
      rw [e] at h <;> cases h
    exact ⟨bs, hl, hh, rfl⟩
  cases hb : s.busy <;> cases i <;>
    simp only [exec, execEsc, execUnesc, execCksum, execFrame, execChunk, execParse, hb, if_true,
      if_false, Bool.false_eq_true] at h
  case false.esc ty len => obtain ⟨bs, hl, hh, rfl⟩ := operand _ _ h; exact .escAccept ty len bs hl hh hb
  case false.frame ty len =>
    obtain ⟨bs, hl, hh, rfl⟩ := operand _ _ h; exact .frameAccept ty len bs hl hh hb
  case false.chunk ty len =>
    split at h
    · next hn => cases h; exact .range ty len hn hb
    · next hn =>
      obtain ⟨bs, hl, hh, rfl⟩ := operand _ _ h
      exact .chunkAccept ty len bs (Nat.le_of_not_lt hn) hl hh hb
  case false.cksum ty len =>
    obtain ⟨bs, hl, hh, rfl⟩ := operand _ _ h; exact .calcAccept ty len bs hl hh hb
  case false.unesc ty len => cases h; exact .unescAccept ty len hb
  case false.parse ty len => cases h; exact .parseAccept ty len hb
  case true.esc ty len => cases h; exact .tx ⟨ty, len, .inl rfl⟩ hb
  case true.frame ty len => cases h; exact .tx ⟨ty, len, .inr (.inl rfl)⟩ hb
  case true.chunk ty len => cases h; exact .tx ⟨ty, len, .inr (.inr rfl)⟩ hb
  case true.cksum ty len =>
    split at h
    · next hp => obtain ⟨bs, hl, hh, rfl⟩ := operand _ _ h; exact .calc ty len bs hl hh hp hb
    · next hp => cases h; exact .calcIdle ty len hp hb
  case true.unesc ty len =>
    split at h
    · next hp => exact .unesc ty len t hp hb h
    · next hp => cases h; exact .unescIdle ty len hp hb
  case true.parse ty len => exact .parse ty len t hb h

/-- Where a step's next state can come from. The agenda after the step is a. -/
inductive StepCase (s : State) : State → Prop where
  | engineIdle (a : List Action) (hb : s.busy = false) : StepCase s { s with agenda := a }
  | engineStuck (a : List Action) (e : DecodeError) (hd : decode s.cmd = .error e)
      (hb : s.busy = true) : StepCase s { s with agenda := a }
  | engine (a : List Action) (i : Instr) (t : State) (hd : decode s.cmd = .ok i)
      (hb : s.busy = true) (h : exec i { s with agenda := a } = .next t) : StepCase s t
  | read (a : List Action) (size : AccessSize) (addr : Nat) (v : Word)
      (ha : s.agenda = .host (.read size addr) :: a) :
      StepCase s { s with agenda := a, rdata := some v }
  | cmdBusy (a : List Action) (w : Word)
      (ha : s.agenda = .host (.write .word s.cfg.bscBase w) :: a) (hb : s.busy = true) :
      StepCase s (({ s with agenda := a } : State).overrun)
  | cmdAccept (a : List Action) (w : Word) (i : Instr) (t : State)
      (ha : s.agenda = .host (.write .word s.cfg.bscBase w) :: a) (hd : decode w = .ok i)
      (hb : s.busy = false) (h : exec i { s with agenda := a } = .next t) : StepCase s t
  | cmdReject (a : List Action) (w : Word) (e : DecodeError)
      (ha : s.agenda = .host (.write .word s.cfg.bscBase w) :: a) (hd : decode w = .error e)
      (hb : s.busy = false) : StepCase s (({ s with agenda := a } : State).rejectWord w)
  | write (a : List Action) (off : Nat) (data : Word)
      (ha : s.agenda = .host (.write .word (s.cfg.bscBase + off) data) :: a)
      (hlt : off < windowBytes) (h4 : off % 4 = 0) (h0 : off ≠ 0) :
      StepCase s (({ s with agenda := a } : State).writeReg (Reg.ofOffset off) data)
  | rxOffer (a : List Action) (e : RxEvent) (ha : s.agenda = .rxOffer e :: a) :
      StepCase s { s with agenda := a, rxPending := s.rxPending ++ [e] }
  | txAccept (a : List Action) (ha : s.agenda = .txAccept :: a) :
      StepCase s { s with agenda := a, txRoom := s.txRoom + 1 }
  | powerOn (a : List Action) (ha : s.agenda = .powerOn :: a) :
      StepCase s ({ s with agenda := a } : State).powerOn

theorem engineTurn_cases (s t : State) (a : List Action)
    (h : ({ s with agenda := a } : State).engineTurn = .next t) : StepCase s t := by
  unfold State.engineTurn at h
  split at h
  · next hb =>
    split at h
    · next i hd => exact .engine a i t hd hb h
    · next e hd => cases h; exact .engineStuck a e hd hb
  · next hb => cases h; exact .engineIdle a (by simpa using hb)

/-- Everything a step can do when it answers a next state. -/
theorem step_cases (s t : State) (h : step s = .next t) : StepCase s t := by
  cases ha : s.agenda with
  | nil =>
    rw [step_nil s ha] at h
    exact engineTurn_cases s t [] (by rw [← ha]; exact h)
  | cons x a =>
    rw [step_cons s x a ha] at h
    match x with
    | .engine => exact engineTurn_cases s t a h
    | .rxOffer e => cases h; exact .rxOffer a e ha
    | .txAccept => cases h; exact .txAccept a ha
    | .powerOn => cases h; exact .powerOn a ha
    | .otherHost _ => cases h
    | .otherWriter _ => cases h
    | .host (.read size addr) =>
      simp only [State.turn] at h
      rcases hostRead_cases { s with agenda := a } size addr with e | e | e | ⟨v, e⟩ <;>
        rw [e] at h <;> cases h
      exact .read a size addr v ha
    | .host (.write size addr data) =>
      simp only [State.turn] at h
      rcases hostWrite_cases { s with agenda := a } size addr data with
        e | e | ⟨rfl, rfl, e⟩ | ⟨off, hlt, h4, h0, rfl, rfl, e⟩ <;> rw [e] at h
      · cases h
      · cases h
      · unfold State.writeCmd at h
        split at h
        · next hb => cases h; exact .cmdBusy a data ha hb
        · next hb =>
          have hb : s.busy = false := by simpa using hb
          split at h
          · next i hd => exact .cmdAccept a data i t ha hd hb h
          · next e hd => cases h; exact .cmdReject a data e ha hd hb
      · cases h
        exact .write a off data ha hlt h4 h0

end Sys2Proof.Machine
end

