-- ==== Sys2Proof/Laws/PerInstr.lean ====
section
/-! SUPPORT. Statements for all commands, one lemma per command. -/

namespace Sys2Proof.Laws

open Sys2Proof

/-- A packed word has zeros in its reserved fields. -/
theorem packWord_reserved (op : BitVec 4) (ty len : Byte) :
    packWord op ty len &&& 0xFF0000F0 = 0 := by
  ext i hi
  simp only [packWord, BitVec.getElem_and, BitVec.getElem_append]
  interval_cases i <;> simp

namespace EncodeLegal

/-- The word of a command is legal as a decoder pattern (spec 30_encoding R82). -/
def Statement (i : Instr) : Prop := encode i &&& 0xFF0000F0 = 0

theorem esc (ty len : Byte) : Statement (.esc ty len) := packWord_reserved 1 ty len
theorem unesc (ty len : Byte) : Statement (.unesc ty len) := packWord_reserved 2 ty len
theorem cksum (ty len : Byte) : Statement (.cksum ty len) := packWord_reserved 3 ty len
theorem frame (ty len : Byte) : Statement (.frame ty len) := packWord_reserved 4 ty len
theorem chunk (ty len : Byte) : Statement (.chunk ty len) := packWord_reserved 5 ty len
theorem parse (ty len : Byte) : Statement (.parse ty len) := packWord_reserved 6 ty len

end EncodeLegal

end Sys2Proof.Laws
end

