-- ==== Sys2Proof/Tests/Slice0.lean ====
section
/-! SUPPORT. The model's own tests, and for each obligation with hypotheses a witness that meets them.
Expected results come from spec 95_test_vectors, by the vector's name, or from the rule cited. -/

namespace Sys2Proof.Tests

open Sys2Proof Sys2Proof.Machine

/-! ## Helpers -/

/-- A buffer that holds the bytes bs from index k on. -/
def cells : Nat → List Byte → Memory
  | _, [] => []
  | k, b :: bs => (k, b) :: cells (k + 1) bs

theorem read_cells (k j : Nat) (bs : List Byte) : (cells k bs).read (k + j) = bs[j]? := by
  induction bs generalizing k j with
  | nil => simp [cells]
  | cons b bs ih =>
    cases j with
    | zero => simp [cells, Memory.read]
    | succ j =>
      have hne : ¬k = k + (j + 1) := by omega
      rw [cells, Memory.read, if_neg hne, show k + (j + 1) = k + 1 + j by omega, ih,
        List.getElem?_cons_succ]

theorem holds_cells (bs : List Byte) : holds (cells 0 bs) bs := fun j _ => by
  simpa using read_cells 0 j bs

/-- The reset state with the bytes bs in TXBUF. -/
def loaded (bs : List Byte) : State := { State.reset with txbuf := cells 0 bs }

/-- s with one turn to come. -/
def about (a : Action) (s : State) : State := { s with agenda := [a] }

/-- s with the host about to write the word w at an offset. -/
def writing (off : Nat) (w : Word) (s : State) : State :=
  about (.host (.write .word (s.cfg.bscBase + off) w)) s

/-- s with the host about to read an offset. -/
def reading (off : Nat) (s : State) : State := about (.host (.read .word (s.cfg.bscBase + off))) s

/-- A command that executes, in a phase, with the RX source offering events. -/
def running (i : Instr) (p : Phase) (es : List RxEvent) : State :=
  { State.reset with cmd := encode i, busy := true, phase := p, rxPending := es }

/-- A field of the next state, if the outcome is one. -/
def after {α : Type} (o : Host.Outcome State Fault Refusal) (f : State → α) : Option α :=
  match o with
  | .next s => some (f s)
  | .fault _ => none
  | .refused _ => none

/-- How an outcome stops, if it does. -/
def stopOf (o : Host.Outcome State Fault Refusal) : Option (Fault ⊕ Refusal) :=
  match o with
  | .next _ => none
  | .fault f => some (.inl f)
  | .refused r => some (.inr r)

/-! ## Well-formedness -/

/-- Spec 30_encoding R84: a CHUNK of 251 data bytes is ill-formed, one of 250 is not. -/
theorem test_wellFormed_chunk_251_refused : (Instr.chunk 0x24 251).wellFormed = false := by decide
theorem test_wellFormed_chunk_250 : (Instr.chunk 0x24 250).wellFormed = true := by decide

/-- The ill-formed CHUNK still decodes (30_encoding R88): its acceptance raises LEN_RANGE. -/
theorem test_decode_ill_formed_chunk : decode 0x00FB2405 = .ok (.chunk 0x24 251) := by decide

/-! ## Decoding: words written out bit by bit, RSV1 LEN TYPE RSV0 OP (30_encoding R80) -/

/-- V-E2, `ESC 3`. -/
theorem test_decode_esc : decode 0b00000000000000110000000000000001 = .ok (.esc 0 3) := by decide
/-- V-A9, a UNESC with a nonzero ignored TYPE. -/
theorem test_decode_unesc : decode 0b00000000000000001111111100000010 = .ok (.unesc 0xFF 0) := by
  decide
/-- V-K1, `CKSUM 0`. -/
theorem test_decode_cksum : decode 0b00000000000000000000000000000011 = .ok (.cksum 0 0) := by decide
/-- V-F1, `FRAME 0xFE, 2`. -/
theorem test_decode_frame : decode 0b00000000000000101111111000000100 = .ok (.frame 0xFE 2) := by
  decide
/-- V-C1, `CHUNK 0x24, 10`. -/
theorem test_decode_chunk : decode 0b00000000000010100010010000000101 = .ok (.chunk 0x24 10) := by
  decide
/-- V-A8, a PARSE with nonzero ignored fields. -/
theorem test_decode_parse : decode 0b00000000111111110101010100000110 = .ok (.parse 0x55 0xFF) := by
  decide
/-- V-A4 and V-A5: a nonzero reserved field. -/
theorem test_decode_reserved_fields : decode 0b00000000000000000000000000010100 = .error .reservedField ∧
    decode 0b00000001000000000000000000000110 = .error .reservedField := by decide
/-- V-A3: OP 0xF. -/
theorem test_decode_reserved_op : decode 0b00000000000000000000000000001111 = .error .reservedOp := by
  decide
theorem test_decodeTableWord : decodeTableWord 32 0x0002FE04 = some (.frame 0xFE 2) ∧
    decodeTableWord 32 0x00000007 = none := by decide

/-! ## One step of a command -/

/-- V-E2: `ESC 3` over `03 10 03`. -/
theorem test_esc_accept : after (exec (.esc 0 3) (loaded [0x03, 0x10, 0x03])) (·.txseq) =
    some [0x03, 0x10, 0x10, 0x03] := by decide
/-- V-E1: `ESC 0` emits nothing and completes in its first engine step. -/
theorem test_esc_empty : after (exec (.esc 0 0) (running (.esc 0 0) .tx [])) (·.statusWord) =
    some 0x002 := by decide
/-- V-U4: the second byte of `10 03`. -/
theorem test_unesc_desync :
    after (exec (.unesc 0 0) { running (.unesc 0 0) .unesc [.byte 0x03] with escp := true })
      (fun t => (t.statusWord, t.result, t.rxPending)) = some (0x032, 0, []) := by decide
/-- V-U8: `10`, then none. -/
theorem test_unesc_first_marker :
    after (exec (.unesc 0 0) (running (.unesc 0 0) .unesc [.byte 0x10])) (·.statusWord) =
      some 0x3401 := by decide
/-- V-K8: `FF FF`. -/
theorem test_cksum_carries :
    after (exec (.cksum 0 2)
      { loaded [0xFF, 0xFF] with cmd := encode (.cksum 0 2), busy := true, phase := .calc })
      (fun t => (t.result, t.statusWord)) = some (0x02, 0x002) := by decide
/-- 41_checksum R131: phase CALC after acceptance. -/
theorem test_cksum_accept :
    after (exec (.cksum 0 2) (loaded [0x80, 0x80])) (·.statusWord) = some 0x2001 := by decide
/-- V-F6: the checksum is 0x10 and is stuffed. -/
theorem test_frame_stuffs_checksum : after (exec (.frame 0x0A 1) (loaded [0xE5])) (·.txseq) =
    some [0x10, 0x0A, 0x01, 0xE5, 0x10, 0x10, 0x10, 0x03] := by decide
/-- V-F9: the type 0x10 is raw. -/
theorem test_frame_raw_type : after (exec (.frame 0x10 1) (loaded [0x01])) (·.txseq) =
    some [0x10, 0x10, 0x01, 0x01, 0xEE, 0x10, 0x03] := by decide
/-- V-C4: OFFSET 0x10, stuffed, lowest byte first. -/
theorem test_chunk_offset :
    after (exec (.chunk 0x24 1) { loaded [0x01] with offset := 0x10 }) (·.txseq) =
      some [0x10, 0x24, 0x05, 0x10, 0x10, 0x00, 0x00, 0x00, 0x01, 0xC6, 0x10, 0x03] := by decide
/-- V-C9: 251 data bytes. -/
theorem test_chunk_range :
    after (exec (.chunk 0x24 251) State.reset) (·.statusWord) = some 0x062 := by decide
/-- V-P26: a wrong checksum, raised before the end marker is read. -/
theorem test_parse_mismatch :
    after (exec (.parse 0 0)
      { running (.parse 0 0) .cksum [.byte 0xF5, .byte 0x10, .byte 0x04] with
        hidT := 0x0A, rxtype := 0x0A })
      (fun t => (t.statusWord, t.rxcksumWord, t.rxPending)) =
      some (0x012, 0xF6F5, [.byte 0x10, .byte 0x04]) := by decide
/-- V-P5: `10 04` where the end marker belongs. -/
theorem test_parse_framing_end :
    after (exec (.parse 0 0) { running (.parse 0 0) .end2 [.byte 0x04] with hidE1 := 0x10 })
      (·.statusWord) = some 0x022 := by decide

/-! ## One step of the machine -/

/-- V-A10: a CMD write while PARSE is stuck in HUNT. -/
theorem test_write_while_busy :
    after (step (writing 0x000 0x00030003 (running (.parse 0x55 0xFF) .hunt [])))
      (fun t => (t.statusWord, t.cmd)) = some (0x4201, 0x00FF5506) := by decide
/-- V-A11: clearing OVR. -/
theorem test_clear_ovr :
    after (step (writing 0x004 0x200 { running (.parse 0 0) .hunt [] with ovr := true }))
      (·.statusWord) = some 0x4001 := by decide
/-- V-A7: ILLEGAL_CMD before LEN_RANGE. -/
theorem test_illegal_before_range :
    after (step (writing 0x000 0x01FB2405 State.reset)) (·.statusWord) = some 0x052 := by decide
/-- V-A14: PARAM with both settings. -/
theorem test_param : after (step (reading 0x02C State.reset)) (·.rdata) = some (some 0x01FA0310) ∧
    after (step (reading 0x02C (State.resetWith { bscBase := 0x8000, lenStuffedOnTx := false })))
      (·.rdata) = some (some 0x00FA0310) := by decide
/-- V-R2: soft reset in HUNT. -/
theorem test_soft_reset :
    after (step (writing 0x008 1
      { running (.parse 0 0) .hunt [.byte 3] with skipcnt := 2, rxcnt := 2 }))
      (fun t => (t.statusWord, t.skipcnt, t.rxcnt, t.cmd, t.rxPending)) =
      some (0, 0, 0, 0, [.byte 3]) := by decide
/-- 70_reset_and_hazards R222: reading an unwritten byte faults. -/
theorem test_unwritten_read :
    stopOf (step (reading 0x400 State.reset)) = some (.inl .unwrittenRead) := by decide
/-- 20_memory R61: a byte read is refused. -/
theorem test_byte_read_refused :
    stopOf (step (about (.host (.read .byte 0)) State.reset)) = some (.inr .undefinedAccess) := by
  decide
/-- V-F1's word, fetched and run as the first instruction after reset: TXBUF is unwritten (R231). -/
theorem test_fetched_frame_unwritten :
    stopOf (step (State.reset.withFetchWord 32 0x0002FE04)) = some (.inl .unwrittenOperand) := by
  decide
/-- V-A8: a PARSE as the first instruction after reset. -/
theorem test_fetched_parse :
    after (step (State.reset.withFetchWord 32 0x00FF5506)) (·.statusWord) = some 0x4001 := by decide
/-- 10_state R31 and 60_exceptions R193: the codes in the order of their tables. -/
theorem test_codes :
    [Phase.idle, .tx, .calc, .unesc, .hunt, .type, .eomStart, .eomType, .len, .payload, .cksum, .end1,
      .end2].map (·.code.toNat) = [0, 1, 2, 3, 4, 5, 6, 7, 8, 9, 10, 11, 12] ∧
    [ErrCode.none, .checksumMismatch, .framingEnd, .framingDesync, .rxTimeout, .illegalCmd,
      .lenRange].map (·.code.toNat) = [0, 1, 2, 3, 4, 5, 6] := by decide
/-- V-P28: a Timeout in TYPE. -/
theorem test_timeout_status :
    after (exec (.parse 0 0) (running (.parse 0 0) .type [.timeout])) (·.statusWord) =
      some 0x042 := by decide
/-- V-P23: PHASE LEN. -/
theorem test_status_len :
    after (step (running (.parse 0 0) .len [])) (·.statusWord) = some 0x8001 := by decide
/-- 30_encoding R90: `SEND T, <bytes>` expands to loads, the command and a wait. -/
theorem test_script_send : scriptSend 0 0xFE [0, 0] =
    [.wr 0x400 0, .wr 0x404 0, .wr 0x000 0x0002FE04, .rd 0x004,
      .gotoIf { mask := 1, value := 1, equal := true } 3] := by decide
/-- A host in a WAIT loop goes on when bit 0 of STATUS is 0. -/
theorem test_script_wait :
    (scriptTurn (scriptWait 0) 1 { State.reset with rdata := some 0x002 }).1 = 2 ∧
    (scriptTurn (scriptWait 0) 1 { State.reset with rdata := some 0x4001 }).1 = 0 := by decide

/-! ## The canonical form of the buffers -/

theorem test_write_keeps_order : (Memory.write [(1, 0xAA), (3, 0xBB)] 2 0x55).wf = true ∧
    Memory.write [(1, 0xAA), (3, 0xBB)] 2 0x55 = [(1, 0xAA), (2, 0x55), (3, 0xBB)] ∧
    Memory.write [(1, 0xAA)] 1 0x55 = [(1, 0x55)] := by decide
theorem test_reset_wf : State.reset.txbuf.wf = true ∧ State.reset.rxbuf.wf = true := by decide

/-! ## Witnesses: for each obligation with hypotheses, concrete states and operands that meet them -/

/-- An outcome whose next state exists, from one that can be computed. -/
theorem next_of_after {o : Host.Outcome State Fault Refusal} (h : (after o State.busy).isSome = true) :
    ∃ t, o = .next t := by
  cases o with
  | next t => exact ⟨t, rfl⟩
  | fault f => cases h
  | refused r => cases h

theorem witness_DecodeInvertsEncode : decode 0x00FF5506 = .ok (.parse 0x55 0xFF) := by decide

theorem witness_StepRunsDecodedCommand :
    ((writing 0 6 State.reset).agenda =
        [.host (.write .word (writing 0 6 State.reset).cfg.bscBase 6)] ∧
      (writing 0 6 State.reset).busy = false ∧ decode 6 = .ok (.parse 0 0)) ∧
    ((about .engine (running (.parse 0 0) .hunt [])).agenda = [.engine] ∧
      (about .engine (running (.parse 0 0) .hunt [])).busy = true ∧
      decode (about .engine (running (.parse 0 0) .hunt [])).cmd = .ok (.parse 0 0)) ∧
    ((running (.parse 0 0) .hunt []).agenda = [] ∧ (running (.parse 0 0) .hunt []).busy = true ∧
      decode (running (.parse 0 0) .hunt []).cmd = .ok (.parse 0 0)) := by decide

/-- The four kinds of illegal word, with OP at 0, 7 and 15. -/
theorem witness_IllegalWordRaisesIllegalCmd :
    (∀ w : Word, (writing 0 w State.reset).agenda =
        [.host (.write .word (writing 0 w State.reset).cfg.bscBase w)] ∧
      (writing 0 w State.reset).busy = false) ∧
    (0x0 : Word).toNat % 16 = 0 ∧ 7 ≤ (0x7 : Word).toNat % 16 ∧ 7 ≤ (0xF : Word).toNat % 16 ∧
    (0x14 : Word).toNat / 16 % 16 ≠ 0 ∧ (0x01000006 : Word).toNat / 2 ^ 24 ≠ 0 :=
  ⟨fun _ => ⟨rfl, rfl⟩, by decide, by decide, by decide, by decide, by simp⟩

/-- N = 0, and N = 255. -/
theorem witness_EscAccepted :
    ((loaded []).busy = false ∧ ([] : List Byte).length = (0 : Byte).toNat ∧
      holds (loaded []).txbuf []) ∧
    ((loaded (List.replicate 255 0x10)).busy = false ∧
      (List.replicate 255 (0x10 : Byte)).length = (255 : Byte).toNat ∧
      holds (loaded (List.replicate 255 0x10)).txbuf (List.replicate 255 0x10)) :=
  ⟨⟨rfl, rfl, holds_cells _⟩, ⟨rfl, List.length_replicate, holds_cells _⟩⟩

theorem witness_FrameAccepted :
    (loaded [0xE5]).busy = false ∧ ([0xE5] : List Byte).length = (1 : Byte).toNat ∧
      holds (loaded [0xE5]).txbuf [0xE5] := ⟨rfl, rfl, holds_cells _⟩

/-- N = 0, and N = 250. -/
theorem witness_ChunkAccepted :
    ((loaded []).busy = false ∧ (0 : Byte).toNat ≤ 250 ∧
      ([] : List Byte).length = (0 : Byte).toNat ∧ holds (loaded []).txbuf []) ∧
    ((loaded (List.replicate 250 0x10)).busy = false ∧ (250 : Byte).toNat ≤ 250 ∧
      (List.replicate 250 (0x10 : Byte)).length = (250 : Byte).toNat ∧
      holds (loaded (List.replicate 250 0x10)).txbuf (List.replicate 250 0x10)) :=
  ⟨⟨rfl, by decide, rfl, holds_cells _⟩, ⟨rfl, by decide, List.length_replicate, holds_cells _⟩⟩

theorem witness_ChunkOverLimitRaisesLenRange : State.reset.busy = false ∧ 250 < (251 : Byte).toNat := by
  decide

theorem witness_CksumAcceptedThenComputes :
    ([0xFF, 0xFF] : List Byte).length = (2 : Byte).toNat ∧
    holds (loaded [0xFF, 0xFF]).txbuf [0xFF, 0xFF] ∧ (loaded [0xFF, 0xFF]).busy = false ∧
    holds ({ loaded [0xFF, 0xFF] with busy := true, phase := .calc } : State).txbuf [0xFF, 0xFF] ∧
    ({ loaded [0xFF, 0xFF] with busy := true, phase := .calc } : State).busy = true ∧
    ({ loaded [0xFF, 0xFF] with busy := true, phase := .calc } : State).phase = .calc :=
  ⟨rfl, holds_cells _, rfl, holds_cells _, rfl, rfl⟩

theorem witness_ReceiveCommandsAccepted : State.reset.busy = false := rfl

/-- Each side of the equivalence: TXBUF unwritten, and written; for CHUNK at N = 250 and N = 251. -/
theorem witness_UnwrittenOperandFaultsAtAcceptance :
    State.reset.busy = false ∧ (∃ k, k < (1 : Byte).toNat ∧ State.reset.txbuf.read k = none) ∧
    ((250 : Byte).toNat ≤ 250 ∧ ∃ k, k < (250 : Byte).toNat ∧ State.reset.txbuf.read k = none) ∧
    (¬(251 : Byte).toNat ≤ 250 ∧
      ∃ k, k < (251 : Byte).toNat ∧ State.reset.txbuf.read k = none) ∧
    (loaded [0x10]).busy = false ∧
    ¬∃ k, k < (1 : Byte).toNat ∧ (loaded [0x10]).txbuf.read k = none := by
  refine ⟨rfl, ⟨0, by decide, rfl⟩, ⟨by decide, 249, by decide, rfl⟩,
    ⟨by decide, 250, by decide, rfl⟩, rfl, ?_⟩
  rintro ⟨k, hk, h⟩
  have hk : k < 1 := hk
  have h0 : k = 0 := by omega
  subst h0
  cases h

/-- A transmit command in progress. -/
def sending (room pos : Nat) : State :=
  { running (.esc 0 2) .tx [] with txseq := [0x01, 0x02], txpos := pos, txRoom := room }

/-- The four clauses: a byte to send, the last byte, no room, nothing left. -/
theorem witness_TransmitStepEmitsNextByte :
    (sending 1 0).busy = true ∧ (sending 1 0).phase = .tx ∧
    ((sending 1 0).txseq[(sending 1 0).txpos]? = some 0x01 ∧ 0 < (sending 1 0).txRoom ∧
      (sending 1 0).txpos + 1 < (sending 1 0).txseq.length) ∧
    ((sending 1 1).txseq[(sending 1 1).txpos]? = some 0x02 ∧ 0 < (sending 1 1).txRoom ∧
      (sending 1 1).txpos + 1 = (sending 1 1).txseq.length) ∧
    ((sending 0 1).txpos < (sending 0 1).txseq.length ∧ (sending 0 1).txRoom = 0) ∧
    (sending 1 2).txpos = (sending 1 2).txseq.length := by decide

theorem receiving_unesc : receiving (.unesc 0 0) .unesc := .inl ⟨0, 0, rfl, rfl⟩

theorem receiving_parse (p : Phase) (h : p ∈ phasesOf (.parse 0 0)) : receiving (.parse 0 0) p :=
  .inr ⟨0, 0, rfl, h⟩

theorem witness_ReceiveWaitsForAnEvent :
    ((running (.unesc 0 0) .unesc []).busy = true ∧
      receiving (.unesc 0 0) (running (.unesc 0 0) .unesc []).phase ∧
      (running (.unesc 0 0) .unesc []).rxPending = []) ∧
    ((running (.parse 0 0) .hunt []).busy = true ∧
      receiving (.parse 0 0) (running (.parse 0 0) .hunt []).phase ∧
      (running (.parse 0 0) .hunt []).rxPending = []) :=
  ⟨⟨rfl, receiving_unesc, rfl⟩, ⟨rfl, receiving_parse _ (by decide), rfl⟩⟩

theorem witness_TimeoutRaisesRxTimeout :
    ((running (.unesc 0 0) .unesc [.timeout]).busy = true ∧
      receiving (.unesc 0 0) (running (.unesc 0 0) .unesc [.timeout]).phase ∧
      (running (.unesc 0 0) .unesc [.timeout]).rxPending = [.timeout]) ∧
    ((running (.parse 0 0) .end2 [.timeout]).busy = true ∧
      receiving (.parse 0 0) (running (.parse 0 0) .end2 [.timeout]).phase ∧
      (running (.parse 0 0) .end2 [.timeout]).rxPending = [.timeout]) :=
  ⟨⟨rfl, receiving_unesc, rfl⟩, ⟨rfl, receiving_parse _ (by decide), rfl⟩⟩

theorem witness_FirstMarkerSetsEscp :
    ((running (.unesc 0 0) .unesc [.byte 0x10]).busy = true ∧
      receivingEscaped (.unesc 0 0) (running (.unesc 0 0) .unesc [.byte 0x10]).phase ∧
      (running (.unesc 0 0) .unesc [.byte 0x10]).escp = false ∧
      (running (.unesc 0 0) .unesc [.byte 0x10]).rxPending = [.byte 0x10]) ∧
    ((running (.parse 0 0) .len [.byte 0x10]).busy = true ∧
      receivingEscaped (.parse 0 0) (running (.parse 0 0) .len [.byte 0x10]).phase ∧
      (running (.parse 0 0) .len [.byte 0x10]).escp = false ∧
      (running (.parse 0 0) .len [.byte 0x10]).rxPending = [.byte 0x10]) :=
  ⟨⟨rfl, ⟨receiving_unesc, by decide⟩, rfl, rfl⟩,
    ⟨rfl, ⟨receiving_parse _ (by decide), by decide⟩, rfl, rfl⟩⟩

/-- A receive command after the first marker of a pair. -/
def escaped (i : Instr) (p : Phase) (es : List RxEvent) : State := { running i p es with escp := true }

theorem witness_LoneMarkerRaisesFramingDesync :
    ((escaped (.unesc 0 0) .unesc [.byte 0x03]).busy = true ∧
      receivingEscaped (.unesc 0 0) (escaped (.unesc 0 0) .unesc [.byte 0x03]).phase ∧
      (escaped (.unesc 0 0) .unesc [.byte 0x03]).escp = true ∧ (0x03 : Byte) ≠ 0x10 ∧
      (escaped (.unesc 0 0) .unesc [.byte 0x03]).rxPending = [.byte 0x03]) ∧
    ((escaped (.parse 0 0) .payload [.byte 0x03]).busy = true ∧
      receivingEscaped (.parse 0 0) (escaped (.parse 0 0) .payload [.byte 0x03]).phase ∧
      (escaped (.parse 0 0) .payload [.byte 0x03]).escp = true ∧
      (escaped (.parse 0 0) .payload [.byte 0x03]).rxPending = [.byte 0x03]) :=
  ⟨⟨rfl, ⟨receiving_unesc, by decide⟩, rfl, by decide, rfl⟩,
    ⟨rfl, ⟨receiving_parse _ (by decide), by decide⟩, rfl, rfl⟩⟩

/-- A byte that stands for itself, and the second marker of a pair. -/
theorem witness_UnescStoresResult :
    ((running (.unesc 0 0) .unesc [.byte 0x41]).busy = true ∧
      (running (.unesc 0 0) .unesc [.byte 0x41]).phase = .unesc ∧
      (running (.unesc 0 0) .unesc [.byte 0x41]).rxPending = [.byte 0x41] ∧
      arrives (running (.unesc 0 0) .unesc [.byte 0x41]) 0x41 0x41) ∧
    ((escaped (.unesc 0 0) .unesc [.byte 0x10]).busy = true ∧
      (escaped (.unesc 0 0) .unesc [.byte 0x10]).phase = .unesc ∧
      (escaped (.unesc 0 0) .unesc [.byte 0x10]).rxPending = [.byte 0x10] ∧
      arrives (escaped (.unesc 0 0) .unesc [.byte 0x10]) 0x10 0x10) :=
  ⟨⟨rfl, rfl, rfl, .inl ⟨rfl, by decide, rfl⟩⟩, ⟨rfl, rfl, rfl, .inr ⟨rfl, rfl, rfl⟩⟩⟩

theorem witness_ParseHuntSkipsToMarker : ∀ b ∈ ([0x10, 0x55] : List Byte),
    (running (.parse 0 0) .hunt [.byte b]).busy = true ∧
    (running (.parse 0 0) .hunt [.byte b]).phase = .hunt ∧
    (running (.parse 0 0) .hunt [.byte b]).rxPending = [.byte b] := by decide

/-- The four clauses, the type 0x03 and another. -/
theorem witness_ParseReadsTypeRaw :
    ((running (.parse 0 0) .type [.byte 0x10]).busy = true ∧
      (running (.parse 0 0) .type [.byte 0x10]).rxPending = [.byte 0x10] ∧
      (running (.parse 0 0) .type [.byte 0x10]).phase = .type ∧ (0x10 : Byte) ≠ 0x03) ∧
    ((running (.parse 0 0) .type [.byte 0x03]).busy = true ∧
      (running (.parse 0 0) .type [.byte 0x03]).rxPending = [.byte 0x03] ∧
      (running (.parse 0 0) .type [.byte 0x03]).phase = .type) ∧
    ((running (.parse 0 0) .eomStart [.byte 0x77]).busy = true ∧
      (running (.parse 0 0) .eomStart [.byte 0x77]).rxPending = [.byte 0x77] ∧
      (running (.parse 0 0) .eomStart [.byte 0x77]).phase = .eomStart) ∧
    ((running (.parse 0 0) .eomType [.byte 0x03]).busy = true ∧
      (running (.parse 0 0) .eomType [.byte 0x03]).rxPending = [.byte 0x03] ∧
      (running (.parse 0 0) .eomType [.byte 0x03]).phase = .eomType) := by decide

/-- The lengths 0, 255 and, escaped, 16. -/
theorem witness_ParseReadsLength :
    (∀ b ∈ ([0x00, 0xFF] : List Byte), (running (.parse 0 0) .len [.byte b]).busy = true ∧
      (running (.parse 0 0) .len [.byte b]).phase = .len ∧
      (running (.parse 0 0) .len [.byte b]).rxPending = [.byte b] ∧
      arrives (running (.parse 0 0) .len [.byte b]) b b) ∧
    ((escaped (.parse 0 0) .len [.byte 0x10]).busy = true ∧
      (escaped (.parse 0 0) .len [.byte 0x10]).phase = .len ∧
      (escaped (.parse 0 0) .len [.byte 0x10]).rxPending = [.byte 0x10] ∧
      arrives (escaped (.parse 0 0) .len [.byte 0x10]) 0x10 0x10) := by
  refine ⟨?_, ⟨rfl, rfl, rfl, .inr ⟨rfl, rfl, rfl⟩⟩⟩
  unfold arrives
  decide

/-- The first byte of two, and the last one. -/
theorem witness_ParseStoresPayloadByte :
    ∀ k ∈ [0, 1],
      ({ running (.parse 0 0) .payload [.byte 0xAA] with hidL := 2, idx := k } : State).busy = true ∧
      ({ running (.parse 0 0) .payload [.byte 0xAA] with hidL := 2, idx := k } : State).phase =
        .payload ∧
      ({ running (.parse 0 0) .payload [.byte 0xAA] with hidL := 2, idx := k } : State).rxPending =
        [.byte 0xAA] ∧
      arrives { running (.parse 0 0) .payload [.byte 0xAA] with hidL := 2, idx := k } 0xAA 0xAA := by
  unfold arrives
  decide

/-- PARSE in its CKSUM phase after type 0x0A, length 1 and payload E5 (V-P10 has the checksum 0x10). -/
def checking (es : List RxEvent) (e : Bool) : State :=
  { running (.parse 0 0) .cksum es with
    escp := e, hidT := 0x0A, hidL := 1, rxbuf := cells 0 [0xE5] }

/-- A checksum that agrees (10 10 on the wire, its second byte) and one that does not. -/
theorem witness_ParseComparesChecksum :
    ((checking [.byte 0x10] true).busy = true ∧ (checking [.byte 0x10] true).phase = .cksum ∧
      (checking [.byte 0x10] true).rxPending = [.byte 0x10] ∧
      arrives (checking [.byte 0x10] true) 0x10 0x10 ∧
      ([0xE5] : List Byte).length = (checking [.byte 0x10] true).hidL.toNat ∧
      holds (checking [.byte 0x10] true).rxbuf [0xE5] ∧
      (0x10 : Byte) = checksum ([0x0A, 1] ++ [0xE5])) ∧
    ((checking [.byte 0x11] false).busy = true ∧ (checking [.byte 0x11] false).phase = .cksum ∧
      (checking [.byte 0x11] false).rxPending = [.byte 0x11] ∧
      arrives (checking [.byte 0x11] false) 0x11 0x11 ∧
      holds (checking [.byte 0x11] false).rxbuf [0xE5] ∧
      (0x11 : Byte) ≠ checksum ([0x0A, 1] ++ [0xE5])) :=
  ⟨⟨rfl, rfl, rfl, .inr ⟨rfl, rfl, rfl⟩, rfl, holds_cells _, by decide⟩,
    ⟨rfl, rfl, rfl, .inl ⟨rfl, by decide, rfl⟩, holds_cells _, by decide⟩⟩

/-- The three clauses. -/
theorem witness_ParseChecksEndMarker :
    ((running (.parse 0 0) .end1 [.byte 0x10]).busy = true ∧
      (running (.parse 0 0) .end1 [.byte 0x10]).rxPending = [.byte 0x10] ∧
      (running (.parse 0 0) .end1 [.byte 0x10]).phase = .end1) ∧
    (({ running (.parse 0 0) .end2 [.byte 0x03] with hidE1 := 0x10 } : State).busy = true ∧
      ({ running (.parse 0 0) .end2 [.byte 0x03] with hidE1 := 0x10 } : State).rxPending =
        [.byte 0x03] ∧
      ({ running (.parse 0 0) .end2 [.byte 0x03] with hidE1 := 0x10 } : State).phase = .end2 ∧
      ({ running (.parse 0 0) .end2 [.byte 0x03] with hidE1 := 0x10 } : State).hidE1 = 0x10) ∧
    (({ running (.parse 0 0) .end2 [.byte 0x10] with hidE1 := 0x03 } : State).busy = true ∧
      ({ running (.parse 0 0) .end2 [.byte 0x10] with hidE1 := 0x03 } : State).rxPending =
        [.byte 0x10] ∧
      ({ running (.parse 0 0) .end2 [.byte 0x10] with hidE1 := 0x03 } : State).phase = .end2 ∧
      ¬(({ running (.parse 0 0) .end2 [.byte 0x10] with hidE1 := 0x03 } : State).hidE1 = 0x10 ∧
        (0x10 : Byte) = 0x03)) := by decide

theorem witness_EscapeDoublesEveryMarker : ∀ b ∈ ([0x03, 0xFF] : List Byte), b ≠ 0x10 := by decide

/-- A run of two pairs inside `03 10 10 03`, and a sequence that starts with a pair. -/
theorem witness_EscapeLaws :
    (escape [0x03, 0x10, 0x10, 0x03] = [0x03] ++ List.replicate 4 0x10 ++ [0x03] ∧
      ([0x03] : List Byte).getLast? ≠ some 0x10 ∧ ([0x03] : List Byte).head? ≠ some 0x10) ∧
    escape [0x10, 0x03] = 0x10 :: [0x10, 0x03] ∧ escape [0x10] = escape [0x10] := by decide

theorem witness_ChecksumIsTwosComplementOfSum :
    (([0x80, 0x80] : List Byte).map BitVec.toNat).sum % 256 = 0 := by decide

theorem witness_ChecksumLaws : ([1, 2] : List Byte).Perm [2, 1] ∧ (0x3A : Byte) ≠ 0x3B := by decide

theorem witness_FrameWireLength : ([] : List Byte).length ≤ 255 ∧
    (List.replicate 255 (0x10 : Byte)).length ≤ 255 ∧ checksum [0x0A, 0] ≠ 0x10 := by
  exact ⟨by decide, Nat.le_of_eq List.length_replicate, by decide⟩

/-- `10 0A 01 10 10 E5 10 03`: the payload's pair. -/
theorem witness_FrameShowsMarkersOnlyInPairs :
    escape ([1] ++ [0x10] ++ [checksum ([0x0A, 1] ++ [0x10])]) =
      [1] ++ List.replicate 2 0x10 ++ [0xE5] ∧
    ([1] : List Byte).getLast? ≠ some 0x10 ∧ ([0xE5] : List Byte).head? ≠ some 0x10 := by decide

theorem witness_ChunkSendsFrameOfOffsetAndData :
    (1 : Byte).toNat ≤ 250 ∧ ([0x01] : List Byte).length = (1 : Byte).toNat ∧
    ({ loaded [0x01] with offset := 0x10 } : State).busy = false ∧
    (loaded (le32 0x10 ++ [0x01])).busy = false ∧
    ({ loaded [0x01] with offset := 0x10 } : State).cfg = (loaded (le32 0x10 ++ [0x01])).cfg ∧
    holds ({ loaded [0x01] with offset := 0x10 } : State).txbuf [0x01] ∧
    holds (loaded (le32 0x10 ++ [0x01])).txbuf
      (le32 ({ loaded [0x01] with offset := 0x10 } : State).offset ++ [0x01]) :=
  ⟨by decide, rfl, rfl, rfl, rfl, holds_cells _, holds_cells _⟩

/-- TXBUF holds bs, the sink accepts n bytes, the host is about to issue i. -/
def issuing (i : Instr) (bs : List Byte) (n : Nat) : State :=
  writing 0 (encode i) { loaded bs with txRoom := n }

/-- ESC 0 (nothing to send), FRAME 0x0A, 1 (V-F6) and CHUNK 0x24, 1 (V-C4's shape). -/
theorem witness_TransmitCommandEmitsItsSequence :
    ((issuing (.esc 0 0) [] 0).busy = false ∧ ([] : List Byte).length = (0 : Byte).toNat ∧
      holds (issuing (.esc 0 0) [] 0).txbuf [] ∧
      transmits (issuing (.esc 0 0) [] 0).cfg (issuing (.esc 0 0) [] 0).offset [] (.esc 0 0) =
        some [] ∧
      ([] : List Byte).length ≤ (issuing (.esc 0 0) [] 0).txRoom ∧
      (issuing (.esc 0 0) [] 0).agenda =
        [.host (.write .word (issuing (.esc 0 0) [] 0).cfg.bscBase (encode (.esc 0 0)))]) ∧
    ((issuing (.frame 0x0A 1) [0xE5] 8).busy = false ∧
      ([0xE5] : List Byte).length = (1 : Byte).toNat ∧
      holds (issuing (.frame 0x0A 1) [0xE5] 8).txbuf [0xE5] ∧
      transmits (issuing (.frame 0x0A 1) [0xE5] 8).cfg (issuing (.frame 0x0A 1) [0xE5] 8).offset
        [0xE5] (.frame 0x0A 1) = some [0x10, 0x0A, 0x01, 0xE5, 0x10, 0x10, 0x10, 0x03] ∧
      8 ≤ (issuing (.frame 0x0A 1) [0xE5] 8).txRoom ∧
      (issuing (.frame 0x0A 1) [0xE5] 8).agenda =
        [.host (.write .word (issuing (.frame 0x0A 1) [0xE5] 8).cfg.bscBase
          (encode (.frame 0x0A 1)))]) ∧
    ((1 : Byte).toNat ≤ 250 ∧ (issuing (.chunk 0x24 1) [0x01] 11).busy = false ∧
      holds (issuing (.chunk 0x24 1) [0x01] 11).txbuf [0x01] ∧
      transmits (issuing (.chunk 0x24 1) [0x01] 11).cfg (issuing (.chunk 0x24 1) [0x01] 11).offset
        [0x01] (.chunk 0x24 1) = some [0x10, 0x24, 0x05, 0, 0, 0, 0, 0x01, 0xD6, 0x10, 0x03] ∧
      11 ≤ (issuing (.chunk 0x24 1) [0x01] 11).txRoom ∧
      (issuing (.chunk 0x24 1) [0x01] 11).agenda =
        [.host (.write .word (issuing (.chunk 0x24 1) [0x01] 11).cfg.bscBase
          (encode (.chunk 0x24 1)))]) :=
  ⟨⟨rfl, rfl, holds_cells _, by decide, by decide, by decide⟩,
    ⟨rfl, rfl, holds_cells _, by decide, by decide, by decide⟩,
    ⟨by decide, rfl, holds_cells _, by decide, by decide, by decide⟩⟩

/-- The host is about to issue i, and the RX source offers es. -/
def awaiting (i : Instr) (es : List RxEvent) : State :=
  writing 0 (encode i) { State.reset with rxPending := es }

theorem witness_UnescInvertsEscape : ∀ b ∈ ([0x10, 0x03] : List Byte),
    (awaiting (.unesc 0 0) (offered (escape [b]) ++ [.timeout])).busy = false ∧
    (awaiting (.unesc 0 0) (offered (escape [b]) ++ [.timeout])).agenda =
      [.host (.write .word (awaiting (.unesc 0 0) (offered (escape [b]) ++ [.timeout])).cfg.bscBase
        (encode (.unesc 0 0)))] ∧
    (awaiting (.unesc 0 0) (offered (escape [b]) ++ [.timeout])).rxPending =
      offered (escape [b]) ++ [.timeout] := by decide

/-- V-P15: a stray byte, then an acknowledgment; and the longest payload. -/
theorem witness_ParseInvertsEncodeFrame :
    ((0x06 : Byte) ≠ 0x03 ∧ ([0x24, 0x00] : List Byte).length ≤ 255 ∧
      (∀ b ∈ ([0xAA] : List Byte), b ≠ 0x10) ∧
      (awaiting (.parse 0 0)
        (offered ([0xAA] ++ encodeFrame true 0x06 (BitVec.ofNat 8 2) [0x24, 0x00]) ++ [])).busy =
        false ∧
      (awaiting (.parse 0 0)
        (offered ([0xAA] ++ encodeFrame true 0x06 (BitVec.ofNat 8 2) [0x24, 0x00]) ++ [])).agenda =
        [.host (.write .word State.reset.cfg.bscBase (encode (.parse 0 0)))] ∧
      (awaiting (.parse 0 0)
        (offered ([0xAA] ++ encodeFrame true 0x06 (BitVec.ofNat 8 2) [0x24, 0x00]) ++ [])).rxPending =
        offered ([0xAA] ++ encodeFrame true 0x06 (BitVec.ofNat 8 2) [0x24, 0x00]) ++ []) ∧
    (List.replicate 255 (0x10 : Byte)).length ≤ 255 :=
  ⟨⟨by decide, by decide, by decide, rfl, rfl, rfl⟩, Nat.le_of_eq List.length_replicate⟩

/-- V-P3's shape: an end marker, then a frame, here of type 0x03 (V-P21). -/
theorem witness_ParseResumesAfterEndMarker :
    ([0x00] : List Byte).length ≤ 255 ∧
    (awaiting (.parse 0 0)
      (offered ([0x10, 0x03] ++ encodeFrame true 0x03 (BitVec.ofNat 8 1) [0x00]) ++ [])).busy =
      false ∧
    (awaiting (.parse 0 0)
      (offered ([0x10, 0x03] ++ encodeFrame true 0x03 (BitVec.ofNat 8 1) [0x00]) ++ [])).agenda =
      [.host (.write .word State.reset.cfg.bscBase (encode (.parse 0 0)))] ∧
    (awaiting (.parse 0 0)
      (offered ([0x10, 0x03] ++ encodeFrame true 0x03 (BitVec.ofNat 8 1) [0x00]) ++ [])).rxPending =
      offered ([0x10, 0x03] ++ encodeFrame true 0x03 (BitVec.ofNat 8 1) [0x00]) ++ [] :=
  ⟨by decide, rfl, rfl, rfl⟩

/-- V-P16's change: `3A` becomes `3B`. -/
def corrupted : List RxEvent :=
  offered ([] ++ [0x10, 0x0A] ++ escape [BitVec.ofNat 8 2] ++ (escape [0x3A, 0x00]).set 0 0x3B
    ++ escape [checksum (0x0A :: BitVec.ofNat 8 2 :: [0x3A, 0x00])] ++ [0x10, 0x03]) ++ []

theorem witness_CorruptPayloadByteRaisesMismatch :
    (0x0A : Byte) ≠ 0x03 ∧ ([0x3A, 0x00] : List Byte).length ≤ 255 ∧
    (awaiting (.parse 0 0) corrupted).busy = false ∧ (escape [0x3A, 0x00])[0]? = some 0x3A ∧
    (0x3A : Byte) ≠ 0x10 ∧ (0x3B : Byte) ≠ 0x10 ∧ (0x3B : Byte) ≠ 0x3A ∧
    (awaiting (.parse 0 0) corrupted).agenda =
      [.host (.write .word State.reset.cfg.bscBase (encode (.parse 0 0)))] ∧
    (awaiting (.parse 0 0) corrupted).rxPending = corrupted ∧
    corrupted = offered [0x10, 0x0A, 0x02, 0x3B, 0x00, 0xBA, 0x10, 0x03] := by
  refine ⟨by decide, by decide, rfl, by decide, by decide, by decide, by decide, rfl, rfl, by decide⟩

/-- Both buffers with their first and last byte written. -/
def filled : State :=
  { State.reset with txbuf := [(0, 0x55), (255, 0x66)], rxbuf := [(0, 0x77), (255, 0x88)] }

/-- Every clause, ranges at both ends. -/
theorem witness_HostReadReturnsRegister :
    (∀ off ∈ [0x000, 0x004, 0x008, 0x00C, 0x010, 0x014, 0x018, 0x01C, 0x020, 0x024, 0x028, 0x030,
        0x3FC, 0xC00, 0xFFC, 0x400, 0x7FC, 0x800, 0xBFC],
      (reading off filled).agenda =
        [.host (.read .word ((reading off filled).cfg.bscBase + off))]) ∧
    (∀ off ∈ [0x030, 0x3FC, 0xC00, 0xFFC],
      off % 4 = 0 ∧ (0x030 ≤ off ∧ off < 0x400 ∨ 0xC00 ≤ off ∧ off < 0x1000)) ∧
    (0x400 = 0x400 + 4 * 0 ∧ filled.txbuf.read 0 = some 0x55) ∧
    (0x7FC = 0x400 + 4 * 255 ∧ filled.txbuf.read 255 = some 0x66) ∧
    (0x800 = 0x800 + 4 * 0 ∧ filled.rxbuf.read 0 = some 0x77) ∧
    (0xBFC = 0x800 + 4 * 255 ∧ filled.rxbuf.read 255 = some 0x88) := by
  refine ⟨fun off _ => rfl, by decide, by decide, by decide, by decide, by decide⟩

theorem witness_ParamReadsItsConstant :
    (reading 0x02C State.reset).agenda =
      [.host (.read .word ((reading 0x02C State.reset).cfg.bscBase + 0x02C))] := rfl

theorem witness_HostReadHasNoSideEffect :
    (reading 0x004 State.reset).agenda = [.host (.read .word 0x004)] ∧
    ∃ t, step (reading 0x004 State.reset) = .next t :=
  ⟨by decide, next_of_after (by decide)⟩

/-- Index 0 and index 255 of both buffers. -/
theorem witness_UnwrittenBufferReadFaults :
    (∀ i ∈ [0, 255], i < 256) ∧
    (∀ i ∈ [0, 255], (reading (0x400 + 4 * i) State.reset).agenda =
      [.host (.read .word (State.reset.cfg.bscBase + 0x400 + 4 * i))]) ∧
    (∀ i ∈ [0, 255], (reading (0x800 + 4 * i) State.reset).agenda =
      [.host (.read .word (State.reset.cfg.bscBase + 0x800 + 4 * i))]) := by decide

theorem witness_BusyWritesOnlySetOvr :
    (∀ off ∈ [0x000, 0x010, 0x400, 0x7FC],
      (writing off 0x55 (running (.parse 0 0) .hunt [])).busy = true ∧
      (writing off 0x55 (running (.parse 0 0) .hunt [])).agenda =
        [.host (.write .word (State.reset.cfg.bscBase + off) 0x55)]) ∧
    0x400 = 0x400 + 4 * 0 ∧ 0x7FC = 0x400 + 4 * 255 :=
  ⟨fun _ _ => ⟨rfl, rfl⟩, rfl, rfl⟩

theorem witness_IdleWritesStoreOperands :
    (writing 0x010 0x12345678 State.reset).busy = false ∧
    (writing 0x010 0x12345678 State.reset).agenda =
      [.host (.write .word (State.reset.cfg.bscBase + 0x010) 0x12345678)] ∧
    (∀ i ∈ [0, 255], i < 256 ∧ (writing (0x400 + 4 * i) 0x155 State.reset).agenda =
      [.host (.write .word (State.reset.cfg.bscBase + 0x400 + 4 * i) 0x155)]) := by decide

/-- Every clause, ranges at both ends. -/
theorem witness_ReadOnlyWritesIgnored :
    ∀ off ∈ [0x00C, 0x014, 0x3FC, 0x800, 0xFFC],
      (writing off 0xFFFFFFFF State.reset).agenda =
        [.host (.write .word (State.reset.cfg.bscBase + off) 0xFFFFFFFF)] ∧
      off % 4 = 0 ∧ off < 0x1000 ∧ (off = 0x00C ∨ (0x014 ≤ off ∧ off < 0x400) ∨ 0x800 ≤ off) := by
  decide

theorem witness_CtrlWriteResets :
    (∀ w : Word, (writing 0x008 w (running (.parse 0 0) .hunt [])).agenda =
      [.host (.write .word (State.reset.cfg.bscBase + 0x008) w)]) ∧
    (1 : Word).getLsbD 0 = true ∧ (0xFFFFFFFE : Word).getLsbD 0 = false :=
  ⟨fun _ => rfl, by decide, by rfl⟩

theorem witness_PowerOnResetValues : (about .powerOn filled).agenda = [.powerOn] := rfl

/-- A byte access, a misaligned word, and the four ends of the reserved ranges. -/
theorem witness_UndefinedAccessesRefused :
    (0 < 0x1000 ∧ (about (.host (.read .byte 0)) State.reset).agenda =
      [.host (.read .byte (State.reset.cfg.bscBase + 0))]) ∧
    (2 < 0x1000 ∧ (about (.host (.write .word 2 0)) State.reset).agenda =
      [.host (.write .word (State.reset.cfg.bscBase + 2) 0)]) ∧
    (∀ off ∈ [0x030, 0x3FC, 0xC00, 0xFFC], off < 0x1000 ∧ off % 4 = 0 ∧
      (0x030 ≤ off ∧ off < 0x400 ∨ 0xC00 ≤ off)) ∧
    (∀ off, (reading off State.reset).agenda =
      [.host (.read .word (State.reset.cfg.bscBase + off))]) :=
  ⟨⟨by decide, rfl⟩, ⟨by decide, rfl⟩, by decide, fun _ => rfl⟩

/-- The reset state with the window at 0x1000. -/
def moved : State := State.resetWith { bscBase := 0x1000, lenStuffedOnTx := true }

/-- Just below the window, and just above it. -/
theorem witness_OutsidersStop :
    (about (.otherHost (.read .word 0)) moved).agenda = [.otherHost (.read .word 0)] ∧
    (about (.otherWriter 0x10) moved).agenda = [.otherWriter 0x10] ∧
    (0xFFC < moved.cfg.bscBase ∧
      (about (.host (.read .word 0xFFC)) moved).agenda = [.host (.read .word 0xFFC)]) ∧
    (moved.cfg.bscBase + 0x1000 ≤ 0x2000 ∧
      (about (.host (.write .word 0x2000 0)) moved).agenda =
        [.host (.write .word 0x2000 0)]) :=
  ⟨rfl, rfl, ⟨by decide, rfl⟩, Nat.le_refl 0x2000, rfl⟩

/-- A sound state with a PARSE in HUNT. -/
theorem sound_hunting (es : List RxEvent) : Inv (running (.parse 0 0) .hunt es) := by
  constructor
  case running =>
    have hd : decode (encode (.parse 0 0)) = .ok (.parse 0 0) := by decide
    have hp : Phase.hunt ∈ phasesOf (.parse 0 0) := by decide
    exact fun _ => ⟨.parse 0 0, hd, hp⟩
  all_goals first
    | (intro h; cases h; done)
    | (intro h; simp [running, State.reset, State.resetWith] at h; done)
    | (simp [running, State.reset, State.resetWith, Config.default, Memory.wf, Memory.wfFrom])

theorem witness_StepKeepsSoundness :
    Inv (running (.parse 0 0) .hunt [.byte 0x10]) ∧
    ∃ t, step (running (.parse 0 0) .hunt [.byte 0x10]) = .next t :=
  ⟨sound_hunting _, next_of_after (by decide)⟩

theorem witness_OnlyAccessesStop :
    Inv (reading 0x400 (running (.parse 0 0) .hunt [])) ∧
    stops (step (reading 0x400 (running (.parse 0 0) .hunt []))) := by
  constructor
  · obtain ⟨⟩ := sound_hunting []
    constructor <;> assumption
  · intro t h
    have hs : stopOf (step (reading 0x400 (running (.parse 0 0) .hunt []))) =
        some (.inl .unwrittenRead) := by decide
    rw [h] at hs
    cases hs

theorem witness_EngineStepFrame :
    (running (.parse 0 0) .hunt [.byte 0x10]).busy = true ∧
    ∃ t, exec (.parse 0 0) (running (.parse 0 0) .hunt [.byte 0x10]) = .next t :=
  ⟨rfl, next_of_after (by decide)⟩

/-- Each clause's commands. -/
theorem witness_CommandsWriteOnlyTheirRegisters :
    (∃ t, exec (.esc 0 0) State.reset = .next t) ∧ (∃ t, exec (.frame 0 0) State.reset = .next t) ∧
    (∃ t, exec (.chunk 0 0) State.reset = .next t) ∧ (∃ t, exec (.cksum 0 0) State.reset = .next t) ∧
    (∃ t, exec (.unesc 0 0) (running (.unesc 0 0) .unesc [.byte 0x10]) = .next t) ∧
    (∃ t, exec (.parse 0 0) (running (.parse 0 0) .type [.byte 0x10]) = .next t) :=
  ⟨next_of_after (by decide), next_of_after (by decide), next_of_after (by decide),
    next_of_after (by decide), next_of_after (by decide), next_of_after (by decide)⟩

theorem witness_OperandsFixedWhileBusy :
    (running (.parse 0 0) .hunt []).busy = true ∧
    (after (step (running (.parse 0 0) .hunt [])) (·.busy)) = some true := by decide

/-- OVR set by each kind of write, cleared by each of the three, and a STATUS write. -/
theorem witness_OvrSetAndClearedOnlyByHost :
    (∀ off ∈ [0x000, 0x010, 0x400, 0x7FC],
      (writing off 0 (running (.parse 0 0) .hunt [])).ovr = false ∧
      after (step (writing off 0 (running (.parse 0 0) .hunt []))) (·.ovr) = some true) ∧
    after (step (writing 0x004 0x200 { State.reset with ovr := true })) (·.ovr) = some false ∧
    after (step (writing 0x008 1 { State.reset with ovr := true })) (·.ovr) = some false ∧
    after (step (about .powerOn { State.reset with ovr := true })) (·.ovr) = some false ∧
    (writing 0x004 0x200 State.reset).agenda =
      [.host (.write .word (State.reset.cfg.bscBase + 0x004) 0x200)] := by decide

theorem witness_IdleHiddenStateNeverShows :
    State.reset.busy = false ∧
    State.reset.visible = ({ State.reset with txseq := [0x10], hidT := 7, idx := 3 } : State).visible :=
  ⟨rfl, rfl⟩

theorem witness_PortsKeepOrder :
    (∃ t, step (about (.rxOffer .timeout) State.reset) = .next t) ∧
    (∃ t, step (running (.parse 0 0) .hunt [.byte 0x10]) = .next t) ∧
    ∃ t, step (sending 1 0) = .next t :=
  ⟨next_of_after (by decide), next_of_after (by decide), next_of_after (by decide)⟩

theorem witness_PortTurnsAndIdleEngine :
    (about (.rxOffer (.byte 0x10)) State.reset).agenda = [.rxOffer (.byte 0x10)] ∧
    (about .txAccept State.reset).agenda = [.txAccept] ∧
    (about .engine State.reset).busy = false ∧ (about .engine State.reset).agenda = [.engine] ∧
    State.reset.agenda = [] := by decide

end Sys2Proof.Tests
end

/-! ## The ports under one step (spec 00_scope R16, R17, 20_memory R68, R69)

Only two operations of the block touch a port: the transmit step, which may hand the sink one byte, and
the receive primitives, which may consume the first pending event. Every other update keeps both ports,
so the claim about a step is read off the case a step came from. -/

namespace Sys2Proof.Machine

/-- The sink has at most one byte more, at the end. -/
def SinkGrows (s t : State) : Prop := t.txOut = s.txOut ∨ ∃ b, t.txOut = s.txOut ++ [b]

/-- At most the first pending event is gone. -/
def SourceConsumed (s t : State) : Prop :=
  t.rxPending = s.rxPending ∨ ∃ e, s.rxPending = e :: t.rxPending

/-- What the sink holds and what the source offers are the same in both states. -/
def PortsKept (s t : State) : Prop := t.txOut = s.txOut ∧ t.rxPending = s.rxPending

/-- What the block can do to its ports: a byte more in the sink, an event fewer pending. -/
def PortsServed (s t : State) : Prop := SinkGrows s t ∧ SourceConsumed s t

theorem PortsKept.served {s t : State} (h : PortsKept s t) : PortsServed s t :=
  ⟨.inl h.1, .inl h.2⟩

/-- An update that keeps the ports, after the first event is consumed. -/
theorem PortsKept.served_of_consumed {s u t : State} {e : RxEvent} (h : PortsKept u t)
    (hout : u.txOut = s.txOut) (hpend : s.rxPending = e :: u.rxPending) : PortsServed s t :=
  ⟨.inl (h.1.trans hout), .inr ⟨e, by rw [hpend, h.2]⟩⟩

/-- The engine's turn in a transmit command emits at most one byte and consumes no event. -/
theorem txTurn_ports (s : State) : SinkGrows s s.txTurn ∧ s.txTurn.rxPending = s.rxPending := by
  rcases txTurn_cases s with e | ⟨b, -, e⟩ | ⟨b, -, e⟩ | e <;> rw [e]
  · exact ⟨.inl rfl, rfl⟩
  · exact ⟨.inr ⟨b, rfl⟩, rfl⟩
  · exact ⟨.inr ⟨b, rfl⟩, rfl⟩
  · exact ⟨.inl rfl, rfl⟩

/-- A raw receive step consumes at most the first event, if what uses its byte keeps the ports. -/
theorem rxRaw_andThen_ports {s t : State} {k : Byte → State → Host.Outcome State Fault Refusal}
    (h : s.rxRaw.andThen s k = .next t) (hk : ∀ b u t, k b u = .next t → PortsKept u t) :
    PortsServed s t := by
  rcases rxRaw_andThen_cases s t k h with rfl | ⟨es, hp, rfl⟩ | ⟨b, es, hp, hb⟩
  · exact PortsKept.served ⟨rfl, rfl⟩
  · exact ⟨.inl rfl, .inr ⟨_, hp⟩⟩
  · exact (hk _ _ _ hb).served_of_consumed rfl hp

/-- An escaped receive step consumes at most the first event, if what uses its value keeps the ports. -/
theorem unesc_andThen_ports {s t : State} {k : Byte → State → Host.Outcome State Fault Refusal}
    (h : s.unesc.andThen s k = .next t) (hk : ∀ b u t, k b u = .next t → PortsKept u t) :
    PortsServed s t := by
  rcases unesc_andThen_cases s t k h with rfl | ⟨es, hp, rfl⟩ | ⟨es, hp, -, rfl⟩ |
    ⟨b, es, hp, -, -, rfl⟩ | ⟨b, v, es, hp, -, hv⟩
  · exact PortsKept.served ⟨rfl, rfl⟩
  · exact ⟨.inl rfl, .inr ⟨_, hp⟩⟩
  · exact ⟨.inl rfl, .inr ⟨_, hp⟩⟩
  · exact ⟨.inl rfl, .inr ⟨_, hp⟩⟩
  · exact (hk _ _ _ hv).served_of_consumed rfl hp

/-! ### What PARSE does with a byte keeps the ports -/

theorem parseHunt_ports (b : Byte) (s : State) : PortsKept s (parseHunt b s) := by
  unfold parseHunt; split <;> exact ⟨rfl, rfl⟩

theorem parseType_ports (b : Byte) (s : State) : PortsKept s (parseType b s) := by
  unfold parseType; split <;> exact ⟨rfl, rfl⟩

theorem parseEnd2_ports (b : Byte) (s : State) : PortsKept s (parseEnd2 b s) := by
  unfold parseEnd2; split <;> exact ⟨rfl, rfl⟩

theorem parseCksum_ports {c : Byte} {s t : State} (h : parseCksum c s = .next t) :
    PortsKept s t := by
  obtain ⟨p, -, ⟨-, rfl⟩ | ⟨-, rfl⟩⟩ := parseCksum_cases c s t h <;> exact ⟨rfl, rfl⟩

/-- A continuation that always answers keeps the ports if its next state does. -/
theorem portsKept_of_next {f : Byte → State → State} (hf : ∀ b u, PortsKept u (f b u)) :
    ∀ b u t, (.next (f b u) : Host.Outcome State Fault Refusal) = .next t → PortsKept u t := by
  rintro b u t ⟨⟩
  exact hf b u

/-- PARSE emits nothing and consumes at most the first event, in every phase. -/
theorem parseTurn_ports {s t : State} (h : s.parseTurn = .next t) : PortsServed s t := by
  unfold State.parseTurn at h
  cases hp : s.phase <;> simp only [hp] at h
  case hunt => exact rxRaw_andThen_ports h (portsKept_of_next parseHunt_ports)
  case type => exact rxRaw_andThen_ports h (portsKept_of_next parseType_ports)
  case eomStart => exact rxRaw_andThen_ports h (portsKept_of_next fun _ _ => ⟨rfl, rfl⟩)
  case eomType => exact rxRaw_andThen_ports h (portsKept_of_next fun _ _ => ⟨rfl, rfl⟩)
  case len => exact unesc_andThen_ports h (portsKept_of_next fun _ _ => ⟨rfl, rfl⟩)
  case payload => exact unesc_andThen_ports h (portsKept_of_next fun _ _ => ⟨rfl, rfl⟩)
  case cksum => exact unesc_andThen_ports h fun _ _ _ => parseCksum_ports
  case end1 => exact rxRaw_andThen_ports h (portsKept_of_next fun _ _ => ⟨rfl, rfl⟩)
  case end2 => exact rxRaw_andThen_ports h (portsKept_of_next parseEnd2_ports)
  -- IDLE, TX, CALC, UNESC: no phase of PARSE, so no step
  all_goals cases h; exact PortsKept.served ⟨rfl, rfl⟩

/-- One step of a command, its acceptance or an engine step, serves each port at most once. -/
theorem exec_ports {s t : State} {i : Instr} (h : exec i s = .next t) : PortsServed s t := by
  cases exec_cases s t i h with
  | tx => exact ⟨(txTurn_ports s).1, .inl (txTurn_ports s).2⟩
  | unesc _ _ _ _ _ hu =>
    exact unesc_andThen_ports hu (portsKept_of_next fun _ _ => ⟨rfl, rfl⟩)
  | parse _ _ _ _ hp => exact parseTurn_ports hp
  -- the acceptances, CKSUM's own step, and the turns without a step
  | _ => exact PortsKept.served ⟨rfl, rfl⟩

/-- A write of a register other than CMD keeps the ports. -/
theorem writeReg_ports (s : State) (r : Reg) (data : Word) : PortsKept s (s.writeReg r data) := by
  obtain ⟨-, -, hpend, -, hout, -⟩ := writeReg_frame s r data
  exact ⟨hout, hpend⟩

/-- A step serves each port at most once, or the source offers one event more behind the others. -/
theorem step_ports {s t : State} (h : step s = .next t) :
    PortsServed s t ∨ (t.txOut = s.txOut ∧ ∃ e, t.rxPending = s.rxPending ++ [e]) := by
  cases step_cases s t h with
  | engine a i _ _ _ he => exact .inl (exec_ports (s := { s with agenda := a }) he)
  | cmdAccept a w i _ _ _ _ he => exact .inl (exec_ports (s := { s with agenda := a }) he)
  | write a off data =>
    exact .inl (writeReg_ports { s with agenda := a } (Reg.ofOffset off) data).served
  | rxOffer a e => exact .inr ⟨rfl, e, rfl⟩
  | engineIdle | engineStuck | read | cmdBusy | cmdReject | txAccept | powerOn =>
    exact .inl (PortsKept.served ⟨rfl, rfl⟩)

/-- Settles O58, by the case the step came from: the block serves each port at most once, and an event
is added only in the RX source's own turn. -/
theorem portsKeepOrder : Obligations.PortsKeepOrder := by
  intro s t h
  rcases step_ports h with ⟨hsink, hkept | hfirst⟩ | ⟨hout, hoffer⟩
  · exact ⟨hsink, .inl hkept⟩
  · exact ⟨hsink, .inr (.inl hfirst)⟩
  · exact ⟨.inl hout, .inr (.inr hoffer)⟩

/-! ## The step and the decoded command (spec 00_scope R18, 10_state R24, 30_encoding R87) -/

/-- The host's write of a legal word to CMD, with BUSY = 0, is exec of its command. -/
theorem step_cmdWrite_idle {s : State} {w : Word} {i : Instr} {rest : List Action}
    (ha : s.agenda = .host (.write .word s.cfg.bscBase w) :: rest) (hb : s.busy = false)
    (hd : decode w = .ok i) : step s = exec i { s with agenda := rest } := by
  rw [step_cons s _ rest ha]
  exact (hostWrite_cmd { s with agenda := rest } w).trans (writeCmd_idle _ w i hb hd)

/-- A stored 32-bit word is fetched as it was stored. -/
theorem withFetchWord_toNat (s : State) (w : Word) :
    s.withFetchWord 32 w.toNat = s.withCmdWrite w := by
  rw [State.withFetchWord, Nat.mod_eq_of_lt w.isLt, BitVec.ofNat_toNat, BitVec.setWidth_eq]

/-- Settles O5, turn by turn: the host's write of CMD, the engine's turn listed, the engine's turn of an
empty agenda, and a fetched word, which is the first of these on an idle block. -/
theorem stepRunsDecodedCommand : Obligations.StepRunsDecodedCommand := by
  intro s i w rest
  refine ⟨fun ha hb hd => step_cmdWrite_idle ha hb hd, fun ha hb hd => ?_, fun ha hb hd => ?_,
    fun hd => ?_⟩
  · rw [step_cons s _ rest ha]
    exact engineTurn_busy { s with agenda := rest } i hb hd
  · rw [step_nil s ha, engineTurn_busy s i hb hd]
  · rw [withFetchWord_toNat]
    exact step_cmdWrite_idle (s := s.withCmdWrite w) rfl rfl hd

/-! ## The transmit step (spec 40_codec R119, 00_scope R17) -/

/-- In phase TX the engine's turn in ESC, FRAME and CHUNK is the transmit step. -/
theorem exec_transmit {s : State} {i : Instr} (hi : Transmit i) (hb : s.busy = true)
    (hp : s.phase = .tx) : exec i s = .next s.txStep := by
  have hturn : s.txTurn = s.txStep := if_pos hp
  obtain ⟨ty, len, rfl | rfl | rfl⟩ := hi
  · simp [exec, execEsc, hb, hturn]
  · simp [exec, execFrame, hb, hturn]
  · simp [exec, execChunk, hb, hturn]

theorem txStep_emit {s : State} {b : Byte} (hbyte : s.txseq[s.txpos]? = some b)
    (hroom : 0 < s.txRoom) (hmore : s.txpos + 1 < s.txseq.length) :
    s.txStep = { s.txEmit b with txpos := s.txpos + 1 } := by
  have hr : s.txRoom ≠ 0 := by omega
  have hl : s.txpos + 1 ≠ s.txseq.length := by omega
  simp [State.txStep, hbyte, hr, hl]

theorem txStep_last {s : State} {b : Byte} (hbyte : s.txseq[s.txpos]? = some b)
    (hroom : 0 < s.txRoom) (hlast : s.txpos + 1 = s.txseq.length) :
    s.txStep = ({ s.txEmit b with txpos := s.txpos + 1 } : State).complete := by
  have hr : s.txRoom ≠ 0 := by omega
  simp [State.txStep, hbyte, hr, hlast]

theorem txStep_wait {s : State} (hleft : s.txpos < s.txseq.length) (hroom : s.txRoom = 0) :
    s.txStep = s := by
  simp [State.txStep, hleft, hroom]

theorem txStep_exhausted {s : State} (hend : s.txpos = s.txseq.length) : s.txStep = s.complete := by
  simp [State.txStep, hend]

/-- Settles O14: each clause is one equation of the transmit step. -/
theorem transmitStepEmitsNextByte : Obligations.TransmitStepEmitsNextByte := by
  intro s i ty len hi hb hp
  rw [exec_transmit ⟨ty, len, hi⟩ hb hp]
  refine ⟨fun b hbyte hroom hmore => ?_, fun b hbyte hroom hlast => ?_, fun hleft hroom => ?_,
    fun hend => ?_⟩
  · rw [txStep_emit hbyte hroom hmore]; rfl
  · rw [txStep_last hbyte hroom hlast]; rfl
  · rw [txStep_wait hleft hroom]
  · rw [txStep_exhausted hend]; rfl

/-! ## A silent RX source (spec 70_reset_and_hazards R230) -/

/-- The engine's turn in UNESC is one escaped receive step. -/
theorem exec_unesc_receiving {s : State} (ty len : Byte) (hb : s.busy = true)
    (hp : s.phase = .unesc) :
    exec (.unesc ty len) s =
      s.unesc.andThen s fun b u => .next ({ u with result := b } : State).complete := by
  simp [exec, execUnesc, hb, hp]

/-- The engine's turn in PARSE is its parse step. -/
theorem exec_parse_busy {s : State} (ty len : Byte) (hb : s.busy = true) :
    exec (.parse ty len) s = s.parseTurn := by
  simp [exec, execParse, hb]

/-- With no event offered PARSE has no step: each phase begins with a receive primitive, which waits. -/
theorem parseTurn_wait {s : State} (hs : s.rxPending = []) : s.parseTurn = .next s := by
  unfold State.parseTurn
  split <;> simp [rxRaw_nil s hs, unesc_nil s hs]

/-- Settles O15: UNESC and every phase of PARSE begin with a receive primitive, which waits. -/
theorem receiveWaitsForAnEvent : Obligations.ReceiveWaitsForAnEvent := by
  rintro s i hb (⟨ty, len, rfl, hp⟩ | ⟨ty, len, rfl, -⟩) hs
  · rw [exec_unesc_receiving ty len hb hp, unesc_nil s hs, andThen_wait]
  · rw [exec_parse_busy ty len hb, parseTurn_wait hs]

/-! ## The turns of the ports, and the idle engine (spec 00_scope R16, R17, R18, 20_memory R74) -/

/-- Settles O59: the first turn of the agenda is performed; an idle engine's turn changes nothing. -/
theorem portTurnsAndIdleEngine : Obligations.PortTurnsAndIdleEngine := by
  intro s e rest
  refine ⟨fun ha => ?_, fun ha => ?_, fun hb ha => ?_, fun hb ha => ?_⟩
  · rw [step_cons s _ rest ha]; rfl
  · rw [step_cons s _ rest ha]; rfl
  · rw [step_cons s _ rest ha]
    exact engineTurn_idle { s with agenda := rest } hb
  · rw [step_nil s ha, engineTurn_idle s hb]

end Sys2Proof.Machine

/-! ## The word of a command decodes (spec 30_encoding R80, R81) -/

namespace Sys2Proof

/-- Appended bit vectors as a number: the high part counts above the low one. -/
theorem toNat_append_eq_add {m n : Nat} (x : BitVec m) (y : BitVec n) :
    (x ++ y).toNat = x.toNat * 2 ^ n + y.toNat := by
  rw [BitVec.toNat_append, ← Nat.shiftLeft_add_eq_or_of_lt y.isLt, Nat.shiftLeft_eq]

/-- A packed word as a number. -/
theorem packWord_toNat (op : BitVec 4) (ty len : Byte) :
    (packWord op ty len).toNat = op.toNat + ty.toNat * 2 ^ 8 + len.toNat * 2 ^ 16 := by
  simp only [packWord, toNat_append_eq_add, BitVec.toNat_ofNat]
  omega

/-- A field of a word as a number. -/
theorem extractLsb'_toNat_eq_div {n : Nat} (start len : Nat) (x : BitVec n) :
    (x.extractLsb' start len).toNat = x.toNat / 2 ^ start % 2 ^ len := by
  rw [BitVec.extractLsb'_toNat, Nat.shiftRight_eq_div_pow]

section Fields

variable (op : BitVec 4) (ty len : Byte)

@[simp] theorem opField_packWord : opField (packWord op ty len) = op := by
  apply BitVec.eq_of_toNat_eq
  rw [opField, extractLsb'_toNat_eq_div, packWord_toNat]
  omega

@[simp] theorem rsv0Field_packWord : rsv0Field (packWord op ty len) = 0 := by
  apply BitVec.eq_of_toNat_eq
  rw [rsv0Field, extractLsb'_toNat_eq_div, packWord_toNat]
  change _ = 0
  omega

@[simp] theorem typeField_packWord : typeField (packWord op ty len) = ty := by
  apply BitVec.eq_of_toNat_eq
  rw [typeField, extractLsb'_toNat_eq_div, packWord_toNat]
  omega

@[simp] theorem lenField_packWord : lenField (packWord op ty len) = len := by
  apply BitVec.eq_of_toNat_eq
  rw [lenField, extractLsb'_toNat_eq_div, packWord_toNat]
  omega

@[simp] theorem rsv1Field_packWord : rsv1Field (packWord op ty len) = 0 := by
  apply BitVec.eq_of_toNat_eq
  rw [rsv1Field, extractLsb'_toNat_eq_div, packWord_toNat]
  change _ = 0
  omega

end Fields

/-- The word of a command decodes to it: each row has its own OP, the reserved fields are zero. -/
theorem decode_encode (i : Instr) : decode (encode i) = .ok i := by
  cases i <;> simp [decode, encode]

end Sys2Proof

namespace Sys2Proof.Machine

/-! ## What one engine step of PARSE can do (spec 42_framer R160 to R173) -/

/-- Where PARSE's next state can come from: no step, an error or half of a pair at the RX source,
or the work of one phase on the byte it consumed. -/
inductive ParseCase (s : State) : State → Prop where
  /-- No event is offered, or PHASE is none of PARSE's. -/
  | wait : ParseCase s s
  | timeout (es : List RxEvent) (hr : s.rxPending = .timeout :: es) :
      ParseCase s (({ s with rxPending := es } : State).raise .rxTimeout)
  | firstMarker (es : List RxEvent) (hp : s.phase ∈ [.len, .payload, .cksum])
      (hr : s.rxPending = .byte marker :: es) (he : s.escp = false) :
      ParseCase s { s with rxPending := es, rxcnt := satInc s.rxcnt, escp := true }
  | loneMarker (b : Byte) (es : List RxEvent) (hp : s.phase ∈ [.len, .payload, .cksum])
      (hr : s.rxPending = .byte b :: es) (he : s.escp = true) (hb : b ≠ marker) :
      ParseCase s
        (({ s with rxPending := es, rxcnt := satInc s.rxcnt, escp := false } : State).raise
          .framingDesync)
  | startMarker (es : List RxEvent) (hp : s.phase = .hunt) (hr : s.rxPending = .byte marker :: es) :
      ParseCase s { s with rxPending := es, rxcnt := satInc s.rxcnt, phase := .type }
  | skip (b : Byte) (es : List RxEvent) (hp : s.phase = .hunt) (hr : s.rxPending = .byte b :: es)
      (hb : b ≠ marker) :
      ParseCase s
        { s with rxPending := es, rxcnt := satInc s.rxcnt, skipcnt := satInc s.skipcnt }
  | endOfMessage (es : List RxEvent) (hp : s.phase = .type)
      (hr : s.rxPending = .byte endByte :: es) :
      ParseCase s
        { s with
          rxPending := es, rxcnt := satInc s.rxcnt, hidT := endByte, eom := true
          phase := .eomStart }
  | eomStart (b : Byte) (es : List RxEvent) (hp : s.phase = .eomStart)
      (hr : s.rxPending = .byte b :: es) :
      ParseCase s { s with rxPending := es, rxcnt := satInc s.rxcnt, phase := .eomType }
  /-- The type byte, of a frame or after the end-of-message path. -/
  | type (b : Byte) (es : List RxEvent) (hp : s.phase = .type ∧ b ≠ endByte ∨ s.phase = .eomType)
      (hr : s.rxPending = .byte b :: es) :
      ParseCase s
        { s with rxPending := es, rxcnt := satInc s.rxcnt, hidT := b, rxtype := b, phase := .len }
  | len (b v : Byte) (es : List RxEvent) (hp : s.phase = .len) (hr : s.rxPending = .byte b :: es)
      (ha : arrives s b v) :
      ParseCase s
        (parseLen v { s with rxPending := es, rxcnt := satInc s.rxcnt, escp := false })
  | payload (b v : Byte) (es : List RxEvent) (hp : s.phase = .payload)
      (hr : s.rxPending = .byte b :: es) (ha : arrives s b v) :
      ParseCase s
        (parsePayload v { s with rxPending := es, rxcnt := satInc s.rxcnt, escp := false })
  | checksumAgrees (b v : Byte) (es : List RxEvent) (p : List Byte) (hp : s.phase = .cksum)
      (hr : s.rxPending = .byte b :: es) (ha : arrives s b v) (hw : s.rxBytes s.hidL = some p)
      (hc : v = checksum (s.hidT :: s.hidL :: p)) :
      ParseCase s
        { s with
          rxPending := es, rxcnt := satInc s.rxcnt, escp := false, rxRecv := v, rxCalc := v
          phase := .end1 }
  | checksumDiffers (b v : Byte) (es : List RxEvent) (p : List Byte) (hp : s.phase = .cksum)
      (hr : s.rxPending = .byte b :: es) (ha : arrives s b v) (hw : s.rxBytes s.hidL = some p)
      (hc : v ≠ checksum (s.hidT :: s.hidL :: p)) :
      ParseCase s
        (({ s with
          rxPending := es, rxcnt := satInc s.rxcnt, escp := false, rxRecv := v
          rxCalc := checksum (s.hidT :: s.hidL :: p) } : State).raise .checksumMismatch)
  | end1 (b : Byte) (es : List RxEvent) (hp : s.phase = .end1) (hr : s.rxPending = .byte b :: es) :
      ParseCase s { s with rxPending := es, rxcnt := satInc s.rxcnt, hidE1 := b, phase := .end2 }
  | endMarker (es : List RxEvent) (hp : s.phase = .end2) (hr : s.rxPending = .byte endByte :: es)
      (he : s.hidE1 = marker) :
      ParseCase s (({ s with rxPending := es, rxcnt := satInc s.rxcnt } : State).complete)
  | noEndMarker (b : Byte) (es : List RxEvent) (hp : s.phase = .end2)
      (hr : s.rxPending = .byte b :: es) (he : s.hidE1 ≠ marker ∨ b ≠ endByte) :
      ParseCase s
        (({ s with rxPending := es, rxcnt := satInc s.rxcnt } : State).raise .framingEnd)

/-- A phase with a raw byte: it waits, times out, or works on the byte. -/
theorem ParseCase.of_rxRaw {s t : State} {k : Byte → State → Host.Outcome State Fault Refusal}
    (h : s.rxRaw.andThen s k = .next t)
    (hk : ∀ b es, s.rxPending = .byte b :: es →
      k b { s with rxPending := es, rxcnt := satInc s.rxcnt } = .next t → ParseCase s t) :
    ParseCase s t := by
  rcases rxRaw_andThen_cases s t k h with rfl | ⟨es, hr, rfl⟩ | ⟨b, es, hr, hb⟩
  · exact .wait
  · exact .timeout es hr
  · exact hk b es hr hb

/-- A phase with an escaped byte: it also takes half of a pair, or desynchronises. -/
theorem ParseCase.of_unesc {s t : State} {k : Byte → State → Host.Outcome State Fault Refusal}
    (hp : s.phase ∈ [.len, .payload, .cksum]) (h : s.unesc.andThen s k = .next t)
    (hk : ∀ b v es, s.rxPending = .byte b :: es → arrives s b v →
      k v { s with rxPending := es, rxcnt := satInc s.rxcnt, escp := false } = .next t →
      ParseCase s t) :
    ParseCase s t := by
  rcases unesc_andThen_cases s t k h with rfl | ⟨es, hr, rfl⟩ | ⟨es, hr, he, rfl⟩ |
    ⟨b, es, hr, he, hb, rfl⟩ | ⟨b, v, es, hr, ha, hv⟩
  · exact .wait
  · exact .timeout es hr
  · exact .firstMarker es hp hr he
  · exact .loneMarker b es hp hr he hb
  · exact hk b v es hr ha hv

/-- Everything one engine step of PARSE can do when it answers a next state. -/
theorem parseTurn_cases {s t : State} (h : s.parseTurn = .next t) : ParseCase s t := by
  unfold State.parseTurn at h
  cases hp : s.phase <;> simp only [hp] at h
  case hunt =>
    refine .of_rxRaw h fun b es hr hb => ?_
    cases hb
    by_cases hm : b = marker
    · subst hm; exact .startMarker es hp hr
    · rw [parseHunt, if_neg hm]; exact .skip b es hp hr hm
  case type =>
    refine .of_rxRaw h fun b es hr hb => ?_
    cases hb
    by_cases he : b = endByte
    · subst he; exact .endOfMessage es hp hr
    · rw [parseType, if_neg he]; exact .type b es (.inl ⟨hp, he⟩) hr
  case eomStart => exact .of_rxRaw h fun b es hr hb => by cases hb; exact .eomStart b es hp hr
  case eomType => exact .of_rxRaw h fun b es hr hb => by cases hb; exact .type b es (.inr hp) hr
  case len =>
    refine .of_unesc (by simp [hp]) h fun b v es hr ha hv => ?_
    cases hv
    exact .len b v es hp hr ha
  case payload =>
    refine .of_unesc (by simp [hp]) h fun b v es hr ha hv => ?_
    cases hv
    exact .payload b v es hp hr ha
  case cksum =>
    refine .of_unesc (by simp [hp]) h fun b v es hr ha hv => ?_
    obtain ⟨p, hw, ⟨hc, rfl⟩ | ⟨hc, rfl⟩⟩ := parseCksum_cases v _ t hv
    · exact .checksumAgrees b v es p hp hr ha hw hc
    · exact .checksumDiffers b v es p hp hr ha hw hc
  case end1 => exact .of_rxRaw h fun b es hr hb => by cases hb; exact .end1 b es hp hr
  case end2 =>
    refine .of_rxRaw h fun b es hr hb => ?_
    cases hb
    by_cases he : s.hidE1 ≠ marker ∨ b ≠ endByte
    · rw [parseEnd2, if_pos he]; exact .noEndMarker b es hp hr he
    · rw [parseEnd2, if_neg he]
      simp only [ne_eq, not_or, Decidable.not_not] at he
      obtain ⟨he, rfl⟩ := he
      exact .endMarker es hp hr he
  -- IDLE, TX, CALC, UNESC: no phase of PARSE, so no step
  all_goals cases h; exact .wait

/-! ## Soundness, phase by phase (spec 10_state R24 to R31, R39, R44) -/

/-- What soundness says of a state whatever its phase. -/
structure Steady (s : State) : Prop where
  txbufWf : s.txbuf.wf = true
  rxbufWf : s.rxbuf.wf = true
  baseAligned : s.cfg.bscBase % windowBytes = 0
  notDone : s.busy = true → s.done = false ∧ s.err = .none
  errDone : s.err ≠ .none → s.done = true
  eomParse : s.eom = true → ∃ ty len, decode s.cmd = .ok (.parse ty len)

/-- PARSE executes, and has emitted nothing. -/
def Parsing (s : State) : Prop :=
  s.busy = true ∧ (∃ ty len, decode s.cmd = .ok (.parse ty len)) ∧ s.txcnt = 0

/-- What soundness says of a state in a phase. -/
def SoundIn (s : State) : Phase → Prop
  | .idle => s.busy = false ∧ s.escp = false
  | .tx =>
    (s.busy = true ∧ ∃ i, decode s.cmd = .ok i ∧ Transmit i) ∧ s.escp = false ∧
      (s.txpos ≤ s.txseq.length ∧ s.txseq.length ≤ 517 ∧ s.txcnt.toNat = s.txpos) ∧
      s.rxcnt = 0 ∧ s.skipcnt = 0
  | .calc =>
    (s.busy = true ∧
        ∃ ty len, decode s.cmd = .ok (.cksum ty len) ∧ (s.txBytes len).isSome = true) ∧
      s.escp = false ∧ s.txcnt = 0 ∧ s.rxcnt = 0 ∧ s.skipcnt = 0
  | .unesc =>
    (s.busy = true ∧ ∃ ty len, decode s.cmd = .ok (.unesc ty len)) ∧ s.txcnt = 0 ∧ s.skipcnt = 0
  | .hunt | .type | .eomStart | .eomType => Parsing s ∧ s.escp = false
  | .len => Parsing s ∧ s.hidT = s.rxtype
  | .payload =>
    Parsing s ∧ s.hidT = s.rxtype ∧ s.hidL = s.rxlen ∧ s.idx < s.hidL.toNat ∧
      (s.rxbuf.range 0 s.idx).isSome = true
  | .cksum =>
    Parsing s ∧ s.hidT = s.rxtype ∧ s.hidL = s.rxlen ∧ (s.rxBytes s.hidL).isSome = true
  | .end1 | .end2 =>
    Parsing s ∧ s.escp = false ∧ s.hidT = s.rxtype ∧ s.hidL = s.rxlen ∧ s.rxRecv = s.rxCalc

/-- While a command executes, its phase tells which command it can be. -/
theorem phasesOf_cases {i : Instr} {p : Phase} (h : p ∈ phasesOf i) :
    (p = .tx ∧ Transmit i) ∨ (p = .calc ∧ ∃ ty len, i = .cksum ty len) ∨
    (p = .unesc ∧ ∃ ty len, i = .unesc ty len) ∨
    (p ∈ [.hunt, .type, .eomStart, .eomType, .len, .payload, .cksum, .end1, .end2] ∧
      ∃ ty len, i = .parse ty len) := by
  cases i with
  | esc ty len => exact .inl ⟨by simpa [phasesOf] using h, ty, len, .inl rfl⟩
  | frame ty len => exact .inl ⟨by simpa [phasesOf] using h, ty, len, .inr (.inl rfl)⟩
  | chunk ty len => exact .inl ⟨by simpa [phasesOf] using h, ty, len, .inr (.inr rfl)⟩
  | cksum ty len => exact .inr (.inl ⟨by simpa [phasesOf] using h, ty, len, rfl⟩)
  | unesc ty len => exact .inr (.inr (.inl ⟨by simpa [phasesOf] using h, ty, len, rfl⟩))
  | parse ty len => exact .inr (.inr (.inr ⟨h, ty, len, rfl⟩))

theorem tx_mem_phasesOf {i : Instr} (h : Transmit i) : Phase.tx ∈ phasesOf i := by
  obtain ⟨ty, len, rfl | rfl | rfl⟩ := h <;> simp [phasesOf]

theorem Inv.steady {s : State} (h : Inv s) : Steady s :=
  ⟨h.txbufWf, h.rxbufWf, h.baseAligned, h.notDone, h.errDone, h.eomParse⟩

theorem Inv.escp_false {s : State} (h : Inv s) (hp : s.phase ∉ [.unesc, .len, .payload, .cksum]) :
    s.escp = false := by
  simpa using mt h.escpPhase hp

/-- A state whose phase is not IDLE executes. -/
theorem Inv.busy {s : State} (h : Inv s) (hp : s.phase ≠ .idle) : s.busy = true := by
  by_contra hb
  exact hp (h.idlePhase (by simpa using hb))

/-- In a phase of PARSE a sound state is parsing. -/
theorem Inv.parsing {s : State} (h : Inv s)
    (hp : s.phase ∈ [.hunt, .type, .eomStart, .eomType, .len, .payload, .cksum, .end1, .end2]) :
    Parsing s := by
  have hb : s.busy = true := h.busy (by rintro e; simp [e] at hp)
  obtain ⟨i, hd, hi⟩ := h.running hb
  have hne : s.phase ≠ .tx := by rintro e; simp [e] at hp
  rcases phasesOf_cases hi with ⟨e, -⟩ | ⟨e, -⟩ | ⟨e, -⟩ | ⟨-, ty, len, rfl⟩
  · simp [e] at hp
  · simp [e] at hp
  · simp [e] at hp
  · exact ⟨hb, ⟨ty, len, hd⟩, h.noneSent hb hne⟩

/-- What each phase of a sound state claims. -/
theorem Inv.soundIn {s : State} (h : Inv s) : SoundIn s s.phase := by
  have hesc := h.escp_false
  have hpar := h.parsing
  have hbusy := h.busy
  have htype := h.typeWritten
  have hlen := h.lenWritten
  have hmatch := h.checksumMatched
  cases hp : s.phase <;>
    simp only [hp, List.mem_cons, List.not_mem_nil, reduceCtorEq, or_false, or_true, or_self, ne_eq,
      not_false_eq_true, not_true_eq_false, forall_const, IsEmpty.forall_iff]
      at hesc hpar hbusy htype hlen hmatch
  case idle =>
    refine ⟨?_, hesc⟩
    by_contra hb
    obtain ⟨i, -, hi⟩ := h.running (by simpa using hb)
    rcases phasesOf_cases hi with ⟨e, -⟩ | ⟨e, -⟩ | ⟨e, -⟩ | ⟨e, -⟩ <;> simp [hp] at e
  case tx =>
    obtain ⟨i, hd, hi⟩ := h.running hbusy
    rcases phasesOf_cases hi with ⟨-, ht⟩ | ⟨e, -⟩ | ⟨e, -⟩ | ⟨e, -⟩
    · exact ⟨⟨hbusy, i, hd, ht⟩, hesc, h.sent hp, h.noneReceived (.inl hp), h.noneSkipped (.inl hp)⟩
    all_goals simp [hp] at e
  · -- CALC
    exact ⟨⟨hbusy, h.calcOperand hp⟩, hesc, h.noneSent hbusy (by simp [hp]),
      h.noneReceived (.inr hp), h.noneSkipped (.inr (.inl hp))⟩
  case unesc =>
    obtain ⟨i, hd, hi⟩ := h.running hbusy
    rcases phasesOf_cases hi with ⟨e, -⟩ | ⟨e, -⟩ | ⟨-, ty, len, rfl⟩ | ⟨e, -⟩
    · simp [hp] at e
    · simp [hp] at e
    · exact ⟨⟨hbusy, ty, len, hd⟩, h.noneSent hbusy (by simp [hp]), h.noneSkipped (.inr (.inr hp))⟩
    · simp [hp] at e
  case hunt => exact ⟨hpar, hesc⟩
  case type => exact ⟨hpar, hesc⟩
  case eomStart => exact ⟨hpar, hesc⟩
  case eomType => exact ⟨hpar, hesc⟩
  case len => exact ⟨hpar, htype⟩
  case payload => exact ⟨hpar, htype, hlen, h.payloadIdx hp⟩
  case cksum => exact ⟨hpar, htype, hlen, h.payloadWritten hp⟩
  case end1 => exact ⟨hpar, hesc, htype, hlen, hmatch⟩
  case end2 => exact ⟨hpar, hesc, htype, hlen, hmatch⟩

/-- The command of a state that is sound in its phase passes through that phase. -/
theorem SoundIn.running {s : State} (h : SoundIn s s.phase) (hb : s.busy = true) :
    ∃ i, decode s.cmd = .ok i ∧ s.phase ∈ phasesOf i := by
  cases hp : s.phase <;> rw [hp] at h
  case idle => simp [SoundIn, hb] at h
  case tx =>
    obtain ⟨⟨-, i, hd, ht⟩, -⟩ := h
    exact ⟨i, hd, tx_mem_phasesOf ht⟩
  · -- CALC
    obtain ⟨⟨-, ty, len, hd, -⟩, -⟩ := h
    exact ⟨_, hd, by simp [phasesOf]⟩
  case unesc =>
    obtain ⟨⟨-, ty, len, hd⟩, -⟩ := h
    exact ⟨_, hd, by simp [phasesOf]⟩
  all_goals
    obtain ⟨⟨-, ⟨ty, len, hd⟩, -⟩, -⟩ := h
    exact ⟨_, hd, by simp [phasesOf]⟩

/-- A steady state is sound if it is sound in its phase: each clause of soundness that names phases
is held by the claims of these phases, and the other phases leave it nothing to say. -/
theorem SoundIn.inv {s : State} (hs : Steady s) (h : SoundIn s s.phase) : Inv s where
  txbufWf := hs.txbufWf
  rxbufWf := hs.rxbufWf
  baseAligned := hs.baseAligned
  notDone := hs.notDone
  errDone := hs.errDone
  eomParse := hs.eomParse
  running := h.running
  idlePhase hb := by cases hp : s.phase <;> simp_all [SoundIn, Parsing]
  escpPhase he := by cases hp : s.phase <;> simp_all [SoundIn]
  sent hp := by rw [hp] at h; obtain ⟨-, -, hsent, -⟩ := h; exact hsent
  calcOperand hp := by rw [hp] at h; obtain ⟨⟨-, hop⟩, -⟩ := h; exact hop
  typeWritten hp := by cases hp' : s.phase <;> simp_all [SoundIn]
  lenWritten hp := by cases hp' : s.phase <;> simp_all [SoundIn]
  payloadIdx hp := by rw [hp] at h; obtain ⟨-, -, -, hidx⟩ := h; exact hidx
  payloadWritten hp := by rw [hp] at h; obtain ⟨-, -, -, hw⟩ := h; exact hw
  checksumMatched hp := by cases hp' : s.phase <;> simp_all [SoundIn]
  noneSent hb hp := by cases hp' : s.phase <;> simp_all [SoundIn, Parsing]
  noneReceived hp := by cases hp' : s.phase <;> simp_all [SoundIn]
  noneSkipped hp := by cases hp' : s.phase <;> simp_all [SoundIn]

/-! ## The length of a transmit sequence (spec 40_codec R111, 42_framer R143) -/

theorem escape_length_le (bs : List Byte) : (escape bs).length ≤ 2 * bs.length := by
  induction bs with
  | nil => simp
  | cons b bs ih =>
    by_cases hb : b = marker
    · subst hb
      simp only [escape_marker_cons, List.length_cons]
      omega
    · simp only [escape_cons_ne b bs hb, List.length_cons]
      omega

/-- The length byte takes two wire bytes only where it is the marker. -/
theorem escLen_length_le (stuffed : Bool) (l : Byte) :
    (escLen stuffed l).length ≤ if l = marker then 2 else 1 := by
  cases stuffed
  · simp only [escLen, Bool.false_eq_true, if_false, List.length_singleton]
    split <;> omega
  · by_cases h : l = marker
    · subst h; simp [escLen]
    · simp [escLen, h, escape_cons_ne l [] h]

/-- A frame whose length byte tells its body is at most 517 bytes long: a body of 255 markers
doubles, but then the length byte is no marker. -/
theorem encodeFrame_length_le (stuffed : Bool) (t l : Byte) (body : List Byte)
    (hl : body.length = l.toNat) : (encodeFrame stuffed t l body).length ≤ 517 := by
  have hlen := escLen_length_le stuffed l
  have hbody := escape_length_le body
  have hsum := escape_length_le [checksum (t :: l :: body)]
  have hlt := l.isLt
  simp only [encodeFrame, List.length_append, List.length_cons, List.length_nil] at hsum ⊢
  split at hlen
  · next he =>
    have hm : l.toNat = 16 := by rw [he]; rfl
    omega
  · omega

/-- The transmit sequence of a command over its operand is at most 517 bytes long. -/
theorem transmits_length_le {c : Config} {off : Word} {bs seq : List Byte} {i : Instr} {len : Byte}
    (hi : ∃ ty, i = .esc ty len ∨ i = .frame ty len ∨ (i = .chunk ty len ∧ len.toNat ≤ chunkMax))
    (hl : bs.length = len.toNat) (hseq : transmits c off bs i = some seq) : seq.length ≤ 517 := by
  have hlt := len.isLt
  obtain ⟨ty, rfl | rfl | ⟨rfl, hn⟩⟩ := hi <;> cases hseq
  · have := escape_length_le bs
    omega
  · exact encodeFrame_length_le _ _ _ _ hl
  · have h4 : (len + 4).toNat = len.toNat + 4 := by
      rw [BitVec.toNat_add]
      exact Nat.mod_eq_of_lt (by simp only [chunkMax] at hn; simp; omega)
    refine encodeFrame_length_le _ _ _ _ ?_
    rw [h4, List.length_append, le32_length, hl, Nat.add_comm]

/-! ## Where the writable registers stand (spec 10_state R22) -/

/-- Each register a host write can change stands at its own offset. -/
theorem offset_of_ofOffset {off : Nat} (h4 : off % 4 = 0) :
    (Reg.ofOffset off = .status → off = 0x004) ∧ (Reg.ofOffset off = .ctrl → off = 0x008) ∧
    (Reg.ofOffset off = .offset → off = 0x010) ∧
    ∀ i, Reg.ofOffset off = .txbuf i → off = 0x400 + 4 * i ∧ i < bufBytes := by
  rcases ofOffset_cases off h4 with h | h | h | h | h | h | h | h | h | h | h | h |
    ⟨j, hj, h⟩ | ⟨j, -, h⟩ | h
  all_goals
    obtain ⟨hoff, hreg⟩ := h
    rw [hreg]
    simp [hoff]
  exact hj

/-! ## Every step keeps soundness -/

/-- A state in which no command executes is sound if it is steady. -/
theorem Steady.inv_of_idle {s : State} (hs : Steady s) (hb : s.busy = false) (hp : s.phase = .idle)
    (he : s.escp = false) : Inv s := by
  refine SoundIn.inv hs ?_
  rw [hp]
  exact ⟨hb, he⟩

theorem Steady.inv_complete {s : State} (hs : Steady s) : Inv s.complete :=
  Steady.inv_of_idle { hs with notDone := nofun, errDone := fun _ => rfl } rfl rfl rfl

theorem Steady.inv_raise {s : State} (hs : Steady s) (e : ErrCode) : Inv (s.raise e) :=
  Steady.inv_of_idle { hs with notDone := nofun, errDone := fun _ => rfl } rfl rfl rfl

/-- What the engine's steps write outside the phases' own claims keeps a state steady. -/
theorem Steady.received {s : State} (hs : Steady s) (es : List RxEvent) (n : Word) (e : Bool) :
    Steady { s with rxPending := es, rxcnt := n, escp := e } := { hs with }

theorem Steady.accept {s : State} (hs : Steady s) (w : Word) : Steady (s.accept w) :=
  { hs with notDone := fun _ => ⟨rfl, rfl⟩, errDone := fun h => absurd rfl h, eomParse := nofun }

theorem Steady.start {s : State} (hs : Steady s) (w : Word) (p : Phase) :
    Steady ((s.accept w).start p) :=
  { hs.accept w with notDone := fun _ => ⟨rfl, rfl⟩ }

/-- A transmit command is sound from its acceptance on. -/
theorem Steady.inv_startTx {s : State} (hs : Steady s) {i : Instr} (hi : Transmit i)
    {seq : List Byte} (hl : seq.length ≤ 517) : Inv ((s.accept (encode i)).startTx seq) :=
  SoundIn.inv { hs.accept (encode i) with notDone := fun _ => ⟨rfl, rfl⟩ }
    ⟨⟨rfl, i, decode_encode i, hi⟩, rfl, ⟨Nat.zero_le _, hl, rfl⟩, rfl, rfl⟩

/-- Emitting the next byte of the sequence keeps TXCNT at TXPOS. -/
theorem Inv.txTurn {s : State} (h : Inv s) : Inv s.txTurn := by
  by_cases hp : s.phase = .tx
  · have hsound := h.soundIn
    rw [hp] at hsound
    obtain ⟨hcmd, hesc, ⟨hpos, hlen, hcnt⟩, hrx, hskip⟩ := hsound
    rw [State.txTurn, if_pos hp]
    rcases txStep_cases s with ⟨e, -⟩ | ⟨b, -, -, hmore, e⟩ | ⟨b, -, -, -, e⟩ | ⟨-, e⟩ <;> rw [e]
    · exact h
    · have hinc : (satInc s.txcnt).toNat = s.txpos + 1 := by
        rw [satInc_toNat, hcnt, if_neg (by omega)]
      refine SoundIn.inv { h.steady with } ?_
      have hp' : ({ s.txEmit b with txpos := s.txpos + 1 } : State).phase = .tx := hp
      rw [hp']
      exact ⟨hcmd, hesc, ⟨hmore.le, hlen, hinc⟩, hrx, hskip⟩
    · exact Steady.inv_complete (s := { s.txEmit b with txpos := s.txpos + 1 }) { h.steady with }
    · exact h.steady.inv_complete
  · rwa [State.txTurn, if_neg hp]

/-- One engine step of UNESC. -/
theorem Inv.unescTurn {s t : State} (h : Inv s) (hp : s.phase = .unesc)
    (ht : (s.unesc.andThen s fun b u => .next ({ u with result := b } : State).complete) =
      .next t) : Inv t := by
  rcases unesc_andThen_cases s t _ ht with rfl | ⟨es, -, rfl⟩ | ⟨es, -, -, rfl⟩ |
    ⟨b, es, -, -, -, rfl⟩ | ⟨b, v, es, -, -, hv⟩
  · exact h
  · exact (h.steady.received es _ _).inv_raise _
  · have hsound := h.soundIn
    refine SoundIn.inv (h.steady.received es _ _) ?_
    rw [hp] at hsound
    simp only [hp]
    exact hsound
  · exact (h.steady.received es _ _).inv_raise _
  · cases hv
    exact Steady.inv_complete { h.steady with }

/-- One engine step of PARSE: each phase hands the next one what it claims. -/
theorem ParseCase.inv {s t : State} (h : Inv s) (hc : ParseCase s t) : Inv t := by
  have hs := h.steady
  have hsound := h.soundIn
  cases hc with
  | wait => exact h
  | timeout es => exact (hs.received es _ _).inv_raise _
  | firstMarker es hp =>
    refine SoundIn.inv (hs.received es _ _) ?_
    simp only [List.mem_cons, List.not_mem_nil, or_false] at hp
    rcases hp with hp | hp | hp <;> rw [hp] at hsound <;> simp only [hp] <;> exact hsound
  | loneMarker b es => exact (hs.received es _ _).inv_raise _
  | startMarker es hp =>
    rw [hp] at hsound
    exact SoundIn.inv { hs with } hsound
  | skip b es hp =>
    rw [hp] at hsound
    refine SoundIn.inv { hs with } ?_
    simp only [hp]
    exact hsound
  | endOfMessage es hp =>
    rw [hp] at hsound
    obtain ⟨⟨hb, hcmd, hcnt⟩, hesc⟩ := hsound
    exact SoundIn.inv { hs with eomParse := fun _ => hcmd } ⟨⟨hb, hcmd, hcnt⟩, hesc⟩
  | eomStart b es hp =>
    rw [hp] at hsound
    exact SoundIn.inv { hs with } hsound
  | type b es hp =>
    have hpar : Parsing s := by
      obtain ⟨hp, -⟩ | hp := hp <;> rw [hp] at hsound <;> exact hsound.1
    exact SoundIn.inv { hs with } ⟨hpar, rfl⟩
  | len b v es hp =>
    rw [hp] at hsound
    obtain ⟨hpar, htype⟩ := hsound
    refine SoundIn.inv { hs with } ?_
    by_cases hv : v = 0
    · subst hv
      exact ⟨hpar, htype, rfl, rfl⟩
    · have hpos : 0 < v.toNat := Nat.pos_of_ne_zero fun e => hv (BitVec.eq_of_toNat_eq e)
      simp only [parseLen, if_neg hv]
      exact ⟨hpar, htype, rfl, hpos, rfl⟩
  | payload b v es hp =>
    rw [hp] at hsound
    obtain ⟨hpar, htype, hlen, hidx, hwritten⟩ := hsound
    have hlt := s.hidL.isLt
    have hwf : (s.rxbuf.write s.idx v).wf = true :=
      wf_write s.rxbuf s.idx v hs.rxbufWf (by simp only [bufBytes]; omega)
    have hsnoc := range_isSome_snoc s.rxbuf s.idx v hwritten
    refine SoundIn.inv { hs with rxbufWf := hwf } ?_
    by_cases hmore : s.idx + 1 < s.hidL.toNat
    · simp only [parsePayload, if_pos hmore]
      exact ⟨hpar, htype, hlen, hmore, hsnoc⟩
    · have hend : s.hidL.toNat = s.idx + 1 := by omega
      simp only [parsePayload, if_neg hmore]
      refine ⟨hpar, htype, hlen, ?_⟩
      rw [← hend] at hsnoc
      exact hsnoc
  | checksumAgrees b v es p hp =>
    rw [hp] at hsound
    obtain ⟨hpar, htype, hlen, -⟩ := hsound
    exact SoundIn.inv { hs with } ⟨hpar, rfl, htype, hlen, rfl⟩
  | checksumDiffers b v es p =>
    refine Steady.inv_raise ?_ _
    exact { hs with }
  | end1 b es hp =>
    rw [hp] at hsound
    exact SoundIn.inv { hs with } hsound
  | endMarker es => exact (hs.received es _ _).inv_complete
  | noEndMarker b es => exact (hs.received es _ _).inv_raise _

/-- One step of a command, its acceptance or an engine step, keeps soundness. -/
theorem Inv.exec {s t : State} {i : Instr} (h : Inv s) (he : exec i s = .next t) : Inv t := by
  have hs := h.steady
  cases exec_cases s t i he with
  | tx => exact h.txTurn
  | escAccept ty len bs hl =>
    exact hs.inv_startTx ⟨ty, len, .inl rfl⟩
      (transmits_length_le (c := s.cfg) (off := s.offset) ⟨ty, .inl rfl⟩ hl rfl)
  | frameAccept ty len bs hl =>
    exact hs.inv_startTx ⟨ty, len, .inr (.inl rfl)⟩
      (transmits_length_le (off := s.offset) ⟨ty, .inr (.inl rfl)⟩ hl rfl)
  | chunkAccept ty len bs hn hl =>
    exact hs.inv_startTx ⟨ty, len, .inr (.inr rfl)⟩
      (transmits_length_le ⟨ty, .inr (.inr ⟨rfl, hn⟩)⟩ hl rfl)
  | range => exact (hs.accept _).inv_raise _
  | calcAccept ty len bs hl hh =>
    have hw : s.txBytes len = some bs := range_of_holds s.txbuf bs len.toNat hl hh
    exact SoundIn.inv (hs.start _ _)
      ⟨⟨rfl, ty, len, decode_encode _, Option.isSome_of_eq_some hw⟩, rfl, rfl, rfl, rfl⟩
  | unesc ty len _ hp _ hu => exact h.unescTurn hp hu
  | unescAccept ty len =>
    exact SoundIn.inv (hs.start _ _) ⟨⟨rfl, ty, len, decode_encode _⟩, rfl, rfl⟩
  | parse ty len _ _ ht => exact (parseTurn_cases ht).inv h
  | parseAccept ty len =>
    exact SoundIn.inv (hs.start _ _) ⟨⟨rfl, ⟨ty, len, decode_encode _⟩, rfl⟩, rfl⟩
  | calcIdle | unescIdle => exact h
  -- CKSUM's own step
  | _ => exact Steady.inv_complete { hs with }

/-- Both resets end what executes; the soft one keeps the buffers. -/
theorem Steady.inv_softReset {s : State} (hs : Steady s) : Inv s.softReset :=
  Steady.inv_of_idle
    { hs with notDone := nofun, errDone := fun h => absurd rfl h, eomParse := nofun } rfl rfl rfl

theorem Inv.powerOn {s : State} (h : Inv s) : Inv s.powerOn :=
  { h.steady.inv_softReset with
    txbufWf := wf_nil, rxbufWf := wf_nil, calcOperand := nofun, payloadIdx := nofun
    payloadWritten := nofun }

/-- An idle state stays sound with other operands. -/
theorem Inv.operands {s : State} (h : Inv s) (hb : s.busy = false) (off : Word) {m : Memory}
    (hm : m.wf = true) : Inv { s with offset := off, txbuf := m } := by
  have hp := h.idlePhase hb
  refine Steady.inv_of_idle { h.steady with txbufWf := hm } hb hp ?_
  exact h.escp_false (by simp [hp])

/-- A write of a register other than CMD keeps soundness. -/
theorem Inv.writeReg {s : State} (h : Inv s) (off : Nat) (h4 : off % 4 = 0) (data : Word) :
    Inv (s.writeReg (Reg.ofOffset off) data) := by
  rcases writeReg_cases s (Reg.ofOffset off) data with e | ⟨-, -, e⟩ | ⟨-, -, e⟩ | ⟨-, -, e⟩ |
    ⟨hb, -, e⟩ | ⟨hb, i, hi, e⟩ <;> rw [e]
  · exact h
  · exact { h with }
  · exact h.steady.inv_softReset
  · exact { h with }
  · exact h.operands hb data h.txbufWf
  · obtain ⟨-, -, -, htx⟩ := offset_of_ofOffset h4
    obtain ⟨-, hlt⟩ := htx i hi
    exact h.operands hb s.offset (wf_write _ _ _ h.txbufWf hlt)

/-- Settles O51, by the case the step came from. -/
theorem stepKeepsSoundness : Obligations.StepKeepsSoundness := by
  intro s t h hstep
  have hagenda (a : List Action) : Inv { s with agenda := a } := { h with }
  cases step_cases s t hstep with
  | engine a i _ _ _ he => exact (hagenda a).exec he
  | cmdAccept a w i _ _ _ _ he => exact (hagenda a).exec he
  | cmdReject a w => exact ((hagenda a).steady.accept w).inv_raise _
  | write a off data _ _ h4 => exact (hagenda a).writeReg off h4 data
  | powerOn a => exact (hagenda a).powerOn
  -- the idle engine, a host read, a CMD write while busy, the turns of the ports
  | engineIdle | engineStuck | read | cmdBusy | rxOffer | txAccept => exact { h with }

/-! ## What a command's step writes (spec 10_state R28 to R44, 60_exceptions R191, R192)

Each kind of step is said to write no more than some fields: the next state is the old one with
those fields at their new values. Every frame fact is then read off one field. -/

/-- t is s but for the fields acceptance names. -/
def AcceptWrites (s t : State) : Prop :=
  t = { s with
    cmd := t.cmd, busy := t.busy, done := t.done, err := t.err, eom := false, escp := t.escp
    phase := t.phase, skipcnt := t.skipcnt, txcnt := t.txcnt, rxcnt := t.rxcnt, txseq := t.txseq
    txpos := t.txpos }

/-- t is s but for the sink, TXPOS, TXCNT and what completion writes. -/
def TransmitWrites (s t : State) : Prop :=
  t = { s with
    txRoom := t.txRoom, txOut := t.txOut, txcnt := t.txcnt, txpos := t.txpos
    busy := t.busy, done := t.done, phase := t.phase, escp := t.escp }

/-- t is s but for RESULT, the RX source, RXCNT and what the end of a command writes. -/
def ResultWrites (s t : State) : Prop :=
  t = { s with
    result := t.result, rxPending := t.rxPending, rxcnt := t.rxcnt
    busy := t.busy, done := t.done, err := t.err, phase := t.phase, escp := t.escp }

/-- t is s but for the receive registers, RXBUF, the RX source, the counters of PARSE and what the
end of a command writes. -/
def ParseWrites (s t : State) : Prop :=
  t = { s with
    rxtype := t.rxtype, rxlen := t.rxlen, rxRecv := t.rxRecv, rxCalc := t.rxCalc, rxbuf := t.rxbuf
    eom := t.eom, rxPending := t.rxPending, rxcnt := t.rxcnt, skipcnt := t.skipcnt
    idx := t.idx, hidT := t.hidT, hidL := t.hidL, hidE1 := t.hidE1
    busy := t.busy, done := t.done, err := t.err, phase := t.phase, escp := t.escp }

theorem txTurn_writes (s : State) : TransmitWrites s s.txTurn := by
  rcases txTurn_cases s with e | ⟨b, -, e⟩ | ⟨b, -, e⟩ | e <;> rw [e] <;> rfl

theorem unescTurn_writes {s t : State}
    (h : (s.unesc.andThen s fun b u => .next ({ u with result := b } : State).complete) = .next t) :
    ResultWrites s t := by
  rcases unesc_andThen_cases s t _ h with rfl | ⟨es, -, rfl⟩ | ⟨es, -, -, rfl⟩ |
    ⟨b, es, -, -, -, rfl⟩ | ⟨b, v, es, -, -, hv⟩
  case inr.inr.inr.inr => cases hv; rfl
  all_goals rfl

theorem ParseCase.writes {s t : State} (h : ParseCase s t) : ParseWrites s t := by
  cases h <;> rfl

/-- The step of a command writes by its kind: an acceptance, or the engine's turn in one command. -/
inductive ExecWrites (s : State) : Instr → State → Prop where
  | accept {i : Instr} {t : State} (hb : s.busy = false) (h : AcceptWrites s t) : ExecWrites s i t
  | transmit {i : Instr} {t : State} (hb : s.busy = true) (hi : Transmit i)
      (h : TransmitWrites s t) : ExecWrites s i t
  | unesc {ty len : Byte} {t : State} (hb : s.busy = true) (h : ResultWrites s t) :
      ExecWrites s (.unesc ty len) t
  | cksum {ty len : Byte} {t : State} (hb : s.busy = true) (h : ResultWrites s t)
      (hsource : t.rxPending = s.rxPending) : ExecWrites s (.cksum ty len) t
  | parse {ty len : Byte} {t : State} (hb : s.busy = true) (h : ParseWrites s t) :
      ExecWrites s (.parse ty len) t

theorem exec_writes {s t : State} {i : Instr} (h : exec i s = .next t) : ExecWrites s i t := by
  cases exec_cases s t i h with
  | tx hi hb => exact .transmit hb hi (txTurn_writes s)
  | unesc ty len _ _ hb hu => exact .unesc hb (unescTurn_writes hu)
  | unescIdle ty len _ hb => exact .unesc hb rfl
  | calcIdle ty len _ hb => exact .cksum hb rfl rfl
  | parse ty len _ hb ht => exact .parse hb (parseTurn_cases ht).writes
  | escAccept _ _ _ _ _ hb | frameAccept _ _ _ _ _ hb | chunkAccept _ _ _ _ _ _ hb
  | range _ _ _ hb | calcAccept _ _ _ _ _ hb | unescAccept _ _ hb | parseAccept _ _ hb =>
    exact .accept hb rfl
  -- CKSUM's own step
  | _ =>
    rename_i hb
    exact .cksum hb rfl rfl

/-! ### What no command writes -/

/-- The fields no step of a command writes. -/
structure CommandFrame (s t : State) : Prop where
  offset : t.offset = s.offset
  ovr : t.ovr = s.ovr
  txbuf : t.txbuf = s.txbuf
  cfg : t.cfg = s.cfg
  rdata : t.rdata = s.rdata
  agenda : t.agenda = s.agenda

/-- The fields no engine step writes: CMD and TXSEQ besides. -/
structure EngineFrame (s t : State) : Prop extends CommandFrame s t where
  cmd : t.cmd = s.cmd
  txseq : t.txseq = s.txseq

theorem CommandFrame.of_eq {s t r : State} (e : t = r) (h : CommandFrame s r) :
    CommandFrame s t := by
  rwa [e]

theorem EngineFrame.of_eq {s t r : State} (e : t = r) (h : EngineFrame s r) : EngineFrame s t := by
  rwa [e]

theorem AcceptWrites.frame {s t : State} (h : AcceptWrites s t) : CommandFrame s t :=
  .of_eq h ⟨rfl, rfl, rfl, rfl, rfl, rfl⟩

theorem TransmitWrites.frame {s t : State} (h : TransmitWrites s t) : EngineFrame s t :=
  .of_eq h ⟨⟨rfl, rfl, rfl, rfl, rfl, rfl⟩, rfl, rfl⟩

theorem ResultWrites.frame {s t : State} (h : ResultWrites s t) : EngineFrame s t :=
  .of_eq h ⟨⟨rfl, rfl, rfl, rfl, rfl, rfl⟩, rfl, rfl⟩

theorem ParseWrites.frame {s t : State} (h : ParseWrites s t) : EngineFrame s t :=
  .of_eq h ⟨⟨rfl, rfl, rfl, rfl, rfl, rfl⟩, rfl, rfl⟩

theorem exec_engineFrame {s t : State} {i : Instr} (hb : s.busy = true) (h : exec i s = .next t) :
    EngineFrame s t := by
  cases exec_writes h with
  | accept hidle => simp [hb] at hidle
  | transmit _ _ h => exact h.frame
  | unesc _ h => exact h.frame
  | cksum _ h => exact h.frame
  | parse _ h => exact h.frame

theorem exec_commandFrame {s t : State} {i : Instr} (h : exec i s = .next t) :
    CommandFrame s t := by
  cases exec_writes h with
  | accept _ h => exact h.frame
  | transmit hb | unesc hb | cksum hb | parse hb => exact (exec_engineFrame hb h).toCommandFrame

/-! ### The sink and the source -/

/-- The byte the engine emits is the one TXPOS stands at. -/
theorem txTurn_txOut (s : State) :
    s.txTurn.txOut = s.txOut ∨
    ∃ b, s.txseq[s.txpos]? = some b ∧ s.txTurn.txOut = s.txOut ++ [b] := by
  rcases txTurn_cases s with e | ⟨b, hb, e⟩ | ⟨b, hb, e⟩ | e <;> rw [e]
  · exact .inl rfl
  · exact .inr ⟨b, hb, rfl⟩
  · exact .inr ⟨b, hb, rfl⟩
  · exact .inl rfl

/-- A step of a command emits nothing, or the byte TXPOS stands at. -/
theorem exec_txOut {s t : State} {i : Instr} (h : exec i s = .next t) :
    t.txOut = s.txOut ∨ ∃ b, s.txseq[s.txpos]? = some b ∧ t.txOut = s.txOut ++ [b] := by
  cases exec_cases s t i h with
  | tx => exact txTurn_txOut s
  | unesc _ _ _ _ _ hu => exact .inl (congrArg State.txOut (unescTurn_writes hu) :)
  | parse _ _ _ _ ht => exact .inl (congrArg State.txOut (parseTurn_cases ht).writes :)
  -- the acceptances, CKSUM's own step, and the turns without a step
  | _ => exact .inl rfl

/-- Settles O53: the frame of the engine's steps, and the two ports. -/
theorem engineStepFrame : Obligations.EngineStepFrame := by
  intro s t i hb h
  have hf := exec_engineFrame hb h
  obtain ⟨-, hconsumed⟩ := exec_ports h
  exact ⟨hf.cmd, hf.offset, hf.ovr, hf.txbuf, hf.cfg, hf.rdata, hf.agenda, hf.txseq, exec_txOut h,
    hconsumed⟩

/-! ### What only some commands write -/

/-- The fields only PARSE writes, and EOM, which only PARSE sets. -/
structure ReceiveFrame (s t : State) : Prop where
  rxtype : t.rxtype = s.rxtype
  rxlen : t.rxlen = s.rxlen
  rxRecv : t.rxRecv = s.rxRecv
  rxCalc : t.rxCalc = s.rxCalc
  rxbuf : t.rxbuf = s.rxbuf
  eom : t.eom = true → s.eom = true

theorem ReceiveFrame.of_eq {s t r : State} (e : t = r) (h : ReceiveFrame s r) :
    ReceiveFrame s t := by
  rwa [e]

/-- Settles O54: each clause excludes the kinds of step that write its fields. -/
theorem commandsWriteOnlyTheirRegisters : Obligations.CommandsWriteOnlyTheirRegisters := by
  intro s t i h
  have hf := exec_commandFrame h
  refine ⟨fun hi => ?_, fun hi => ?_, fun hi => ?_, fun hi => ?_, fun a => by rw [hf.txbuf],
    hf.offset, hf.ovr, hf.cfg⟩
  · have hr : ReceiveFrame s t := by
      cases exec_writes h with
      | accept _ hw => exact .of_eq hw ⟨rfl, rfl, rfl, rfl, rfl, nofun⟩
      | transmit _ _ hw | unesc _ hw | cksum _ hw => exact .of_eq hw ⟨rfl, rfl, rfl, rfl, rfl, id⟩
      | parse => exact absurd rfl (hi _ _)
    exact ⟨hr.rxtype, hr.rxlen, hr.rxRecv, hr.rxCalc, fun a => by rw [hr.rxbuf], hr.eom⟩
  · cases exec_writes h with
    | accept _ hw | transmit _ _ hw | parse _ hw => exact (congrArg State.result hw :)
    | unesc => exact absurd rfl (hi _ _).1
    | cksum => exact absurd rfl (hi _ _).2
  · cases exec_writes h with
    | accept _ hw | unesc _ hw | cksum _ hw | parse _ hw =>
      exact ⟨(congrArg State.txOut hw :), (congrArg State.txRoom hw :)⟩
    | transmit _ ht =>
      obtain ⟨ty, len, e⟩ := ht
      obtain ⟨hesc, hframe, hchunk⟩ := hi ty len
      simp [hesc, hframe, hchunk] at e
  · cases exec_writes h with
    | accept _ hw | transmit _ _ hw => exact (congrArg State.rxPending hw :)
    | cksum _ _ hsource => exact hsource
    | unesc => exact absurd rfl (hi _ _).1
    | parse => exact absurd rfl (hi _ _).2

/-! ## The operands and OVR over a step of the machine (spec 20_memory R76, 10_state R29) -/

/-- Settles O55, by the case the step came from: the engine's steps leave the operands, the host's
writes of them are ignored while BUSY = 1, and a reset ends the command. -/
theorem operandsFixedWhileBusy : Obligations.OperandsFixedWhileBusy := by
  intro s t hb hstep ht
  cases step_cases s t hstep with
  | engine a i _ _ _ he =>
    have hf := exec_engineFrame (s := { s with agenda := a }) hb he
    exact ⟨hf.cmd, hf.offset, hf.txseq, fun c => by rw [hf.txbuf]⟩
  | write a off data =>
    rcases writeReg_cases { s with agenda := a } (Reg.ofOffset off) data with e | ⟨-, -, e⟩ |
      ⟨-, -, e⟩ | ⟨-, -, e⟩ | ⟨hidle, -⟩ | ⟨hidle, -⟩
    · rw [e]; exact ⟨rfl, rfl, rfl, fun _ => rfl⟩
    · rw [e]; exact ⟨rfl, rfl, rfl, fun _ => rfl⟩
    · rw [e] at ht; cases ht
    · rw [e]; exact ⟨rfl, rfl, rfl, fun _ => rfl⟩
    · exact absurd hidle (by simp [hb])
    · exact absurd hidle (by simp [hb])
  | cmdAccept _ _ _ _ _ _ hidle => simp [hb] at hidle
  | cmdReject _ _ _ _ _ hidle => simp [hb] at hidle
  | powerOn => cases ht
  -- the idle engine, a host read, a CMD write while busy, the turns of the ports
  | engineIdle | engineStuck | read | cmdBusy | rxOffer | txAccept =>
    exact ⟨rfl, rfl, rfl, fun _ => rfl⟩

/-- A step sets OVR only in a write of CMD, OFFSET or TXBUF while BUSY = 1. -/
theorem ovr_set {s t : State} (hstep : step s = .next t) (h0 : s.ovr = false) (h1 : t.ovr = true) :
    s.busy = true ∧ ∃ off data rest,
      s.agenda = .host (.write .word (s.cfg.bscBase + off) data) :: rest ∧
      (off = 0x000 ∨ off = 0x010 ∨ 0x400 ≤ off ∧ off < 0x800) := by
  have hno : s.ovr ≠ true := by simp [h0]
  cases step_cases s t hstep with
  | cmdBusy a w ha hb => exact ⟨hb, 0, w, a, ha, .inl rfl⟩
  | write a off data ha hlt h4 =>
    obtain ⟨-, -, hoffset, htxbuf⟩ := offset_of_ofOffset h4
    rcases writeReg_cases { s with agenda := a } (Reg.ofOffset off) data with e | ⟨-, -, e⟩ |
      ⟨-, -, e⟩ | ⟨hb, hreg, -⟩ | ⟨-, -, e⟩ | ⟨-, i, -, e⟩
    case inr.inr.inr.inl =>
      refine ⟨hb, off, data, a, ha, ?_⟩
      rcases hreg with hreg | ⟨i, hreg⟩
      · exact .inr (.inl (hoffset hreg))
      · obtain ⟨rfl, hi⟩ := htxbuf i hreg
        simp only [bufBytes] at hi
        omega
    all_goals
      rw [e] at h1
      simp [h0] at h1
  | engine a i _ _ _ he =>
    exact absurd ((exec_commandFrame he).ovr.symm.trans h1) hno
  | cmdAccept a w i _ _ _ _ he => exact absurd ((exec_commandFrame he).ovr.symm.trans h1) hno
  | powerOn => cases h1
  | _ => exact absurd h1 hno

/-- A step clears OVR only in power-on reset, a STATUS write with bit 9, or a soft reset. -/
theorem ovr_cleared {s t : State} (hstep : step s = .next t) (h1 : s.ovr = true)
    (h0 : t.ovr = false) :
    ∃ rest, s.agenda = .powerOn :: rest ∨
      (∃ data, s.agenda = .host (.write .word (s.cfg.bscBase + 0x004) data) :: rest ∧
        data.getLsbD 9 = true) ∨
      (∃ data, s.agenda = .host (.write .word (s.cfg.bscBase + 0x008) data) :: rest ∧
        data.getLsbD 0 = true) := by
  have hno : s.ovr ≠ false := by simp [h1]
  cases step_cases s t hstep with
  | powerOn a ha => exact ⟨a, .inl ha⟩
  | write a off data ha hlt h4 =>
    obtain ⟨hstatus, hctrl, -, -⟩ := offset_of_ofOffset h4
    rcases writeReg_cases { s with agenda := a } (Reg.ofOffset off) data with e | ⟨hreg, hbit, -⟩ |
      ⟨hreg, hbit, -⟩ | ⟨-, -, e⟩ | ⟨-, -, e⟩ | ⟨-, i, -, e⟩
    case inr.inl =>
      obtain rfl := hstatus hreg
      exact ⟨a, .inr (.inl ⟨data, ha, hbit⟩)⟩
    case inr.inr.inl =>
      obtain rfl := hctrl hreg
      exact ⟨a, .inr (.inr ⟨data, ha, hbit⟩)⟩
    all_goals
      rw [e] at h0
      simp [h1] at h0
  | engine a i _ _ _ he => exact absurd ((exec_commandFrame he).ovr.symm.trans h0) hno
  | cmdAccept a w i _ _ _ _ he => exact absurd ((exec_commandFrame he).ovr.symm.trans h0) hno
  | cmdBusy => cases h0
  | _ => exact absurd h0 hno

/-! ## The words the host reads (spec 10_state R25 to R41) -/

/-- Settles O39: STATUS is its fields side by side, each above the widths of those below it. -/
theorem statusWordLayout : Obligations.StatusWordLayout := by
  refine ⟨fun s => ?_, by decide⟩
  simp only [State.statusWord, toNat_append_eq_add, BitVec.toNat_ofBool, BitVec.toNat_ofNat]
  omega

theorem rxcksumWord_toNat (s : State) :
    s.rxcksumWord.toNat = s.rxRecv.toNat + s.rxCalc.toNat * 256 := by
  simp only [State.rxcksumWord, toNat_append_eq_add, BitVec.toNat_ofNat]
  omega

theorem zext32_toNat (b : Byte) : (zext32 b).toNat = b.toNat := by
  have := b.isLt
  simp only [zext32, BitVec.toNat_setWidth]
  omega

/-- PARAM with either setting of LEN_STUFFED_ON_TX. -/
theorem paramWord_eq (c : Config) :
    paramWord c = if c.lenStuffedOnTx then 0x01FA0310 else 0x00FA0310 := by
  unfold paramWord
  cases c.lenStuffedOnTx <;> decide

/-- A read of a register does not look at the agenda. -/
theorem readReg_agenda (s : State) (a : List Action) (r : Reg) :
    ({ s with agenda := a } : State).readReg r = s.readReg r := by
  cases r <;> rfl

/-- A host read of a register that has a value, as a step. -/
theorem step_read {s : State} {off : Nat} {v : Word} {rest : List Action}
    (ha : s.agenda = .host (.read .word (s.cfg.bscBase + off)) :: rest)
    (hlt : off < windowBytes) (h4 : off % 4 = 0) (hv : s.readReg (Reg.ofOffset off) = some v) :
    step s = .next { s with agenda := rest, rdata := some v } := by
  rw [step_cons s _ rest ha]
  exact hostRead_reg { s with agenda := rest } off v hlt h4 (by rw [readReg_agenda, hv])

/-- Settles O40: PARAM depends on the configuration alone, which no reset changes. -/
theorem paramReadsItsConstant : Obligations.ParamReadsItsConstant := by
  intro s rest ha
  have hv : s.readReg (Reg.ofOffset 0x02C) = some (paramWord s.cfg) := rfl
  rw [paramWord_eq] at hv
  exact ⟨step_read ha (by decide) rfl hv, rfl, rfl⟩

theorem eq_zext32 {v : Word} {b : Byte} (h : v.toNat = b.toNat) : v = zext32 b :=
  BitVec.eq_of_toNat_eq (h.trans (zext32_toNat b).symm)

/-- Settles O38, offset by offset: each names its register, whose value is v. -/
theorem hostReadReturnsRegister : Obligations.HostReadReturnsRegister := by
  intro s rest off v ha h
  have hread (hlt : off < windowBytes) (h4 : off % 4 = 0)
      (hv : s.readReg (Reg.ofOffset off) = some v) :
      step s = .next { s with agenda := rest, rdata := some v } := step_read ha hlt h4 hv
  rcases h with ⟨rfl, rfl⟩ | ⟨rfl, rfl⟩ | ⟨rfl, rfl⟩ | ⟨rfl, hv⟩ | ⟨rfl, rfl⟩ | ⟨rfl, hv⟩ |
    ⟨rfl, hv⟩ | ⟨rfl, hv⟩ | ⟨rfl, rfl⟩ | ⟨rfl, rfl⟩ | ⟨rfl, rfl⟩ | ⟨i, b, hi, rfl, hb, hv⟩ |
    ⟨i, b, hi, rfl, hb, hv⟩ | ⟨h4, hres, rfl⟩
  -- RESULT, RXTYPE and RXLEN hold a byte, zero-extended
  case inr.inr.inr.inl | inr.inr.inr.inr.inr.inl | inr.inr.inr.inr.inr.inr.inl =>
    obtain rfl := eq_zext32 hv
    exact hread (by decide) rfl rfl
  -- RXCKSUM
  case inr.inr.inr.inr.inr.inr.inr.inl =>
    obtain rfl : v = s.rxcksumWord := BitVec.eq_of_toNat_eq (hv.trans (rxcksumWord_toNat s).symm)
    exact hread (by decide) rfl rfl
  -- a TXBUF byte, an RXBUF byte
  case inr.inr.inr.inr.inr.inr.inr.inr.inr.inr.inr.inl =>
    refine hread (by simp only [windowBytes]; omega) (by omega) ?_
    rw [ofOffset_txbuf i hi, eq_zext32 hv]
    exact congrArg (Option.map zext32) hb
  case inr.inr.inr.inr.inr.inr.inr.inr.inr.inr.inr.inr.inl =>
    refine hread (by simp only [windowBytes]; omega) (by omega) ?_
    rw [ofOffset_rxbuf i hi, eq_zext32 hv]
    exact congrArg (Option.map zext32) hb
  -- a reserved offset
  case inr.inr.inr.inr.inr.inr.inr.inr.inr.inr.inr.inr.inr =>
    refine hread (by simp only [windowBytes]; omega) h4 ?_
    rw [ofOffset_reserved off (by omega)]
    rfl
  -- the registers that are read as they are
  all_goals exact hread (by decide) rfl rfl

/-! ## The registers the host writes (spec 10_state R23, R29, R32, R34, R42) -/

/-- A host write of a register other than CMD, as a step. -/
theorem step_write {s : State} {off : Nat} {data : Word} {rest : List Action}
    (ha : s.agenda = .host (.write .word (s.cfg.bscBase + off) data) :: rest)
    (hlt : off < windowBytes) (h4 : off % 4 = 0) (h0 : off ≠ 0) :
    step s = .next (({ s with agenda := rest } : State).writeReg (Reg.ofOffset off) data) := by
  rw [step_cons s _ rest ha]
  exact hostWrite_reg { s with agenda := rest } off data hlt h4 h0

theorem step_write_txbuf {s : State} {i : Nat} {data : Word} {rest : List Action} (hi : i < 256)
    (ha : s.agenda = .host (.write .word (s.cfg.bscBase + (0x400 + 4 * i)) data) :: rest) :
    step s = .next (({ s with agenda := rest } : State).writeTxbuf i data) := by
  rw [step_write ha (by simp only [windowBytes]; omega) (by omega) (by omega), ofOffset_txbuf i hi]
  rfl

theorem writeOffset_busy {s : State} (hb : s.busy = true) (data : Word) :
    s.writeOffset data = s.overrun := if_pos hb

theorem writeTxbuf_busy {s : State} (hb : s.busy = true) (i : Nat) (data : Word) :
    s.writeTxbuf i data = s.overrun := if_pos hb

theorem writeOffset_idle {s : State} (hb : s.busy = false) (data : Word) :
    s.writeOffset data = { s with offset := data } := by simp [State.writeOffset, hb]

theorem writeTxbuf_idle {s : State} (hb : s.busy = false) (i : Nat) (data : Word) :
    s.writeTxbuf i data = { s with txbuf := s.txbuf.write i (data.setWidth 8) } := by
  simp [State.writeTxbuf, hb]

/-- Settles O43: each of the three writes overruns while BUSY = 1. -/
theorem busyWritesOnlySetOvr : Obligations.BusyWritesOnlySetOvr := by
  rintro s off data rest hb ha (rfl | rfl | ⟨i, hi, rfl⟩)
  · rw [step_cons s _ rest ha]
    exact (hostWrite_cmd { s with agenda := rest } data).trans
      (writeCmd_busy { s with agenda := rest } data hb)
  · rw [step_write ha (by decide) rfl (by decide)]
    exact congrArg Host.Outcome.next (writeOffset_busy (s := { s with agenda := rest }) hb data)
  · rw [step_write_txbuf hi ha, writeTxbuf_busy (s := { s with agenda := rest }) hb]
    rfl

/-- Settles O44: an idle write stores its operand; a TXBUF write reaches one index. -/
theorem idleWritesStoreOperands : Obligations.IdleWritesStoreOperands := by
  refine fun s data rest hb => ⟨fun ha => ?_, fun i hi ha => ?_⟩
  · rw [step_write ha (by decide) rfl (by decide)]
    exact congrArg Host.Outcome.next (writeOffset_idle (s := { s with agenda := rest }) hb data)
  · rw [Nat.add_assoc] at ha
    refine ⟨s.txbuf.write i (data.setWidth 8), read_write_same _ _ _,
      fun a hne => read_write_ne _ _ _ _ hne, ?_⟩
    rw [step_write_txbuf hi ha, writeTxbuf_idle (s := { s with agenda := rest }) hb]

/-- Settles O45: no offset of these ranges names a register that a write changes. -/
theorem readOnlyWritesIgnored : Obligations.ReadOnlyWritesIgnored := by
  intro s off data rest ha h4 hlt hro
  rw [step_write ha hlt h4 (by omega)]
  obtain ⟨hstatus, hctrl, hoffset, htxbuf⟩ := offset_of_ofOffset h4
  have hnot : off ≠ 0x004 ∧ off ≠ 0x008 ∧ off ≠ 0x010 ∧ ¬(0x400 ≤ off ∧ off < 0x800) := by omega
  obtain ⟨h1, h2, h3, hbuf⟩ := hnot
  have htx (i : Nat) (hreg : Reg.ofOffset off = .txbuf i) : False := by
    obtain ⟨rfl, hi⟩ := htxbuf i hreg
    simp only [bufBytes] at hi
    omega
  rcases writeReg_cases { s with agenda := rest } (Reg.ofOffset off) data with e | ⟨hreg, -⟩ |
    ⟨hreg, -⟩ | ⟨-, hreg | ⟨i, hreg⟩, -⟩ | ⟨-, hreg, -⟩ | ⟨-, i, hreg, -⟩
  · rw [e]
  · exact absurd (hstatus hreg) h1
  · exact absurd (hctrl hreg) h2
  · exact absurd (hoffset hreg) h3
  · exact (htx i hreg).elim
  · exact absurd (hoffset hreg) h3
  · exact (htx i hreg).elim

theorem writeCtrl_reset {s : State} {data : Word} (h : data.getLsbD 0 = true) :
    s.writeCtrl data = s.softReset := if_pos h

theorem writeCtrl_none {s : State} {data : Word} (h : data.getLsbD 0 = false) :
    s.writeCtrl data = s := if_neg (by rw [h]; exact Bool.false_ne_true)

theorem softReset_statusWord (s : State) : s.softReset.statusWord = 0 :=
  have hreset : State.reset.statusWord = 0 := by decide
  hreset

/-- Settles O46: bit 0 of the CTRL write decides between a soft reset and nothing. -/
theorem ctrlWriteResets : Obligations.CtrlWriteResets := by
  intro s data rest ha
  have hstep : step s = .next (({ s with agenda := rest } : State).writeCtrl data) :=
    step_write ha (by decide) rfl (by decide)
  refine ⟨fun hbit => ?_, fun hbit => ?_⟩
  · rw [writeCtrl_reset hbit] at hstep
    exact ⟨_, hstep, rfl, softReset_statusWord _, rfl, rfl, rfl, rfl, rfl, rfl, rfl, rfl, rfl, rfl,
      rfl, rfl, rfl, rfl, rfl, rfl, rfl, rfl⟩
  · rw [hstep, writeCtrl_none hbit]

/-- Settles O56: who sets OVR, who clears it, and what a STATUS write does. -/
theorem ovrSetAndClearedOnlyByHost : Obligations.OvrSetAndClearedOnlyByHost := by
  refine ⟨fun s t => ovr_set, fun s t => ovr_cleared, fun s data rest ha => ?_⟩
  rw [step_write ha (by decide) rfl (by decide)]
  change Host.Outcome.next (State.writeStatus data { s with agenda := rest }) = _
  unfold State.writeStatus
  split <;> rfl

/-! ## The counters (spec 10_state R38, R39, R40) -/

/-- Settles O60, from the increment as a number. -/
theorem countersSaturate : Obligations.CountersSaturate := by
  intro w
  have := w.isLt
  rw [satInc_toNat]
  split <;> omega

/-! ## The receive commands' work on a byte (spec 40_codec R114, R116, 42_framer R162 to R169) -/

/-- PARSE's step in the phases that read an escaped byte begins with unesc. -/
theorem parseTurn_escaped {s : State} (hp : s.phase ∈ [.len, .payload, .cksum]) :
    ∃ k, s.parseTurn = s.unesc.andThen s k := by
  unfold State.parseTurn
  simp only [List.mem_cons, List.not_mem_nil, or_false] at hp
  rcases hp with hp | hp | hp <;> rw [hp] <;> exact ⟨_, rfl⟩

/-- Inside an escaped field the engine's turn begins with unesc, in UNESC as in PARSE. -/
theorem exec_receivingEscaped {s : State} {i : Instr} (hb : s.busy = true)
    (hr : receivingEscaped i s.phase) : ∃ k, exec i s = s.unesc.andThen s k := by
  obtain ⟨⟨ty, len, rfl, hp⟩ | ⟨ty, len, rfl, hp⟩, hesc⟩ := hr
  · exact ⟨_, exec_unesc_receiving ty len hb hp⟩
  · rw [exec_parse_busy ty len hb]
    refine parseTurn_escaped ?_
    have hne : s.phase ≠ .unesc := by rintro e; simp [e, phasesOf] at hp
    simpa [hne] using hesc

/-- Settles O17: the first marker of a pair is all that the step looks at. -/
theorem firstMarkerSetsEscp : Obligations.FirstMarkerSetsEscp := by
  intro s i rest hb hr he hrx
  obtain ⟨k, hk⟩ := exec_receivingEscaped hb hr
  rw [hk, unesc_first_marker s rest hrx he, andThen_more]

/-- Settles O19: the value that arrives is stored, and the command completes. -/
theorem unescStoresResult : Obligations.UnescStoresResult := by
  intro s ty len b v rest hb hp hrx ha
  rw [exec_unesc_receiving ty len hb hp, unesc_arrives s b v rest hrx ha, andThen_got]
  rfl

/-- PARSE's step in HUNT. -/
theorem parseTurn_hunt {s : State} (hp : s.phase = .hunt) :
    s.parseTurn = s.rxRaw.andThen s fun b u => .next (parseHunt b u) := by
  simp [State.parseTurn, hp]

/-- PARSE's step in LEN. -/
theorem parseTurn_len {s : State} (hp : s.phase = .len) :
    s.parseTurn = s.unesc.andThen s fun b u => .next (parseLen b u) := by
  simp [State.parseTurn, hp]

/-- PARSE's step in PAYLOAD. -/
theorem parseTurn_payload {s : State} (hp : s.phase = .payload) :
    s.parseTurn = s.unesc.andThen s fun b u => .next (parsePayload b u) := by
  simp [State.parseTurn, hp]

/-- Settles O20: HUNT looks at nothing but whether the byte is the marker. -/
theorem parseHuntSkipsToMarker : Obligations.ParseHuntSkipsToMarker := by
  intro s ty len b rest hb hp hrx
  rw [exec_parse_busy ty len hb, parseTurn_hunt hp, rxRaw_byte s b rest hrx, andThen_got]
  exact apply_ite Host.Outcome.next (b = marker) _ _

/-- Settles O22: the value that arrives is the length. -/
theorem parseReadsLength : Obligations.ParseReadsLength := by
  intro s ty len b v rest hb hp hrx ha
  rw [exec_parse_busy ty len hb, parseTurn_len hp, unesc_arrives s b v rest hrx ha, andThen_got]
  rfl

/-- Settles O23: the value that arrives is written at IDX, and a write reaches one index. -/
theorem parseStoresPayloadByte : Obligations.ParseStoresPayloadByte := by
  intro s ty len b v rest hb hp hrx ha
  refine ⟨s.rxbuf.write s.idx v, read_write_same _ _ _, fun a hne => read_write_ne _ _ _ _ hne, ?_⟩
  rw [exec_parse_busy ty len hb, parseTurn_payload hp, unesc_arrives s b v rest hrx ha, andThen_got]
  rfl

/-! ## A transmit command's run (spec 40_codec R119, 20_memory R68, 70_reset_and_hazards R234) -/

/-- With no turn listed the step is the engine's, in a transmit command the transmit step. -/
theorem step_transmit {s : State} {i : Instr} (ha : s.agenda = []) (hb : s.busy = true)
    (hp : s.phase = .tx) (hd : decode s.cmd = .ok i) (hi : Transmit i) :
    step s = .next s.txStep := by
  rw [step_nil s ha, engineTurn_busy s i hb hd, exec_transmit hi hb hp]

/-- The acceptance of a transmit command fixes its sequence. -/
theorem exec_transmit_accept {s : State} {i : Instr} {len : Byte} {bs seq : List Byte}
    (hi : ∃ ty, i = .esc ty len ∨ i = .frame ty len ∨ (i = .chunk ty len ∧ len.toNat ≤ chunkMax))
    (hb : s.busy = false) (hl : bs.length = len.toNat) (hh : holds s.txbuf bs)
    (hseq : transmits s.cfg s.offset bs i = some seq) :
    exec i s = .next ((s.accept (encode i)).startTx seq) := by
  obtain ⟨ty, rfl | rfl | ⟨rfl, hn⟩⟩ := hi <;> cases hseq
  · simp [exec, execEsc, hb, withOperand_of_holds s len bs _ hl hh]
  · simp [exec, execFrame, hb, withOperand_of_holds s len bs _ hl hh]
  · simp [exec, execChunk, hb, Nat.not_lt.mpr hn, withOperand_of_holds s len bs _ hl hh]

/-- A counter below its limit counts. -/
theorem satInc_ofNat {n : Nat} (hn : n < 0xFFFFFFFF) :
    satInc (BitVec.ofNat 32 n) = BitVec.ofNat 32 (n + 1) := by
  have hmin (k : Nat) (hk : k ≤ 0xFFFFFFFF) : saturated k = BitVec.ofNat 32 k := by
    rw [saturated, Nat.min_eq_left hk]
  rw [← hmin n hn.le, ← hmin (n + 1) hn, satInc_saturated]

/-- s after its transmit command has emitted the bytes rest, the last of its sequence. -/
def State.sentAll (rest : List Byte) (s : State) : State :=
  ({ s with
    txpos := s.txseq.length, txcnt := BitVec.ofNat 32 s.txseq.length
    txRoom := s.txRoom - rest.length, txOut := s.txOut ++ rest } : State).complete

/-- From TXPOS on the engine emits the rest of the sequence, one byte a step, and completes with its
last byte. -/
theorem runFor_transmit {i : Instr} (hi : Transmit i) (sent rest : List Byte) (s : State)
    (ha : s.agenda = []) (hb : s.busy = true) (hp : s.phase = .tx) (hd : decode s.cmd = .ok i)
    (hseq : s.txseq = sent ++ rest) (hpos : s.txpos = sent.length)
    (hcnt : s.txcnt = BitVec.ofNat 32 sent.length) (hlen : s.txseq.length ≤ 517)
    (hroom : rest.length ≤ s.txRoom) (hne : rest ≠ []) :
    runFor rest.length s = .next (s.sentAll rest) := by
  induction rest generalizing sent s with
  | nil => exact absurd rfl hne
  | cons b rest ih =>
    have hstep := step_transmit ha hb hp hd hi
    have hbyte : s.txseq[s.txpos]? = some b := by simp [hseq, hpos]
    have hroom' : 0 < s.txRoom := Nat.lt_of_lt_of_le (Nat.succ_pos _) hroom
    have hlength : s.txseq.length = sent.length + rest.length + 1 := by
      simp [hseq, Nat.add_assoc]
    have hinc : satInc s.txcnt = BitVec.ofNat 32 (sent.length + 1) := by
      rw [hcnt, satInc_ofNat (by omega)]
    cases rest with
    | nil =>
      rw [txStep_last hbyte hroom' (by simp [hpos, hlength])] at hstep
      rw [List.length_singleton, runFor_succ 0 s _ hstep, runFor_zero]
      simp [State.sentAll, State.txEmit, hinc, hlength, hpos]
    | cons c rest =>
      rw [txStep_emit hbyte hroom' (by simp [hpos, hlength])] at hstep
      rw [List.length_cons, runFor_succ _ s _ hstep,
        ih (sent ++ [b]) { s.txEmit b with txpos := s.txpos + 1 } ha hb hp hd (by simp [hseq])
          (by simp [hpos]) (by simp [hinc]) hlen
          (by simp only [List.length_cons, txEmit_txRoom] at hroom ⊢; omega) (List.cons_ne_nil _ _)]
      simp [State.sentAll, State.txEmit, State.complete, Nat.sub_sub, Nat.add_comm 1]

/-- Settles O33: the acceptance fixes the sequence, the engine emits it byte by byte; an empty
sequence completes in one step. -/
theorem transmitCommandEmitsItsSequence : Obligations.TransmitCommandEmitsItsSequence := by
  intro s i len bs seq hi hb hl hh hseq hroom ha
  have htransmit : Transmit i := by
    obtain ⟨ty, rfl | rfl | ⟨rfl, -⟩⟩ := hi
    exacts [⟨ty, len, .inl rfl⟩, ⟨ty, len, .inr (.inl rfl)⟩, ⟨ty, len, .inr (.inr rfl)⟩]
  have hlen : seq.length ≤ 517 := transmits_length_le hi hl hseq
  refine ⟨hlen, ?_⟩
  have hstep := step_cmdWrite_idle ha hb (decode_encode i)
  rw [exec_transmit_accept (s := { s with agenda := [] }) hi hb hl hh hseq] at hstep
  rw [Nat.add_comm 1, runFor_succ _ s _ hstep]
  cases seq with
  | nil =>
    have hdone := step_transmit
      (s := (({ s with agenda := [] } : State).accept (encode i)).startTx []) rfl rfl rfl
      (decode_encode i) htransmit
    rw [txStep_exhausted rfl] at hdone
    simp only [List.length_nil, Nat.max_zero]
    rw [runFor_succ 0 _ _ hdone, runFor_zero]
    simp [State.complete, State.startTx, State.accept]
  | cons b rest =>
    rw [Nat.max_eq_right (by simp),
      runFor_transmit htransmit [] (b :: rest)
        ((({ s with agenda := [] } : State).accept (encode i)).startTx (b :: rest))
        rfl rfl rfl (decode_encode i) rfl rfl rfl hlen hroom (List.cons_ne_nil _ _)]
    rfl

/-! ## The hidden fields show only in the phases that use them (spec 10_state R44)

Two states that differ in hidden fields alone run alike as long as they agree in those fields the
present phase reads. An idle state reads none, and every command writes a hidden field before a
phase of it reads the field. -/

/-- The engine's hidden fields. -/
structure Hidden where
  txseq : List Byte
  txpos : Nat
  idx : Nat
  hidT : Byte
  hidL : Byte
  hidE1 : Byte

def State.hidden (s : State) : Hidden := ⟨s.txseq, s.txpos, s.idx, s.hidT, s.hidL, s.hidE1⟩

/-- s with other hidden fields. -/
def State.withHidden (h : Hidden) (s : State) : State :=
  { s with
    txseq := h.txseq, txpos := h.txpos, idx := h.idx, hidT := h.hidT, hidL := h.hidL
    hidE1 := h.hidE1 }

/-- The hidden fields a phase reads, or hands on to a later one, agree. -/
def Hidden.agree (h k : Hidden) : Phase → Prop
  | .tx => h.txseq = k.txseq ∧ h.txpos = k.txpos
  | .len => h.hidT = k.hidT
  | .payload => h.hidT = k.hidT ∧ h.hidL = k.hidL ∧ h.idx = k.idx
  | .cksum => h.hidT = k.hidT ∧ h.hidL = k.hidL
  | .end2 => h.hidE1 = k.hidE1
  | .idle | .calc | .unesc | .hunt | .type | .eomStart | .eomType | .end1 => True

/-- The states differ only in hidden fields, while a command executes not in those of its phase. -/
def Alike (s u : State) : Prop :=
  ∃ h, u = s.withHidden h ∧ (s.busy = true → s.hidden.agree h s.phase)

/-- The outcomes stop alike, or go on to states that are alike. -/
inductive AlikeOutcome :
    Host.Outcome State Fault Refusal → Host.Outcome State Fault Refusal → Prop where
  | next {s u : State} (h : Alike s u) : AlikeOutcome (.next s) (.next u)
  | fault (f : Fault) : AlikeOutcome (.fault f) (.fault f)
  | refused (r : Refusal) : AlikeOutcome (.refused r) (.refused r)

theorem Alike.of_idle {s : State} (h : Hidden) (hb : s.busy = false) : Alike s (s.withHidden h) :=
  ⟨h, rfl, fun hb' => by simp [hb] at hb'⟩

theorem Alike.of_agree {s : State} {h : Hidden} (hag : s.hidden.agree h s.phase) :
    Alike s (s.withHidden h) :=
  ⟨h, rfl, fun _ => hag⟩

/-- Idle states that look alike are alike. -/
theorem Alike.of_visible {s u : State} (hb : s.busy = false) (hv : s.visible = u.visible) :
    Alike s u := by
  have hu : u = s.withHidden u.hidden := (congrArg (State.withHidden u.hidden) hv.symm :)
  rw [hu]
  exact Alike.of_idle u.hidden hb

theorem AlikeOutcome.visible {o p : Host.Outcome State Fault Refusal} (h : AlikeOutcome o p) :
    visibleOutcome o = visibleOutcome p := by
  cases h with
  | next h => obtain ⟨k, rfl, -⟩ := h; rfl
  | fault | refused => rfl

/-! ### The receive primitives and the operands do not look at the hidden fields -/

theorem alike_rxRaw_andThen {s : State} {h : Hidden} (hag : s.hidden.agree h s.phase)
    {k : Byte → State → Host.Outcome State Fault Refusal}
    (hk : ∀ b es, AlikeOutcome (k b { s with rxPending := es, rxcnt := satInc s.rxcnt })
      (k b (({ s with rxPending := es, rxcnt := satInc s.rxcnt } : State).withHidden h))) :
    AlikeOutcome (s.rxRaw.andThen s k)
      ((s.withHidden h).rxRaw.andThen (s.withHidden h) k) := by
  rcases rxRaw_cases s with ⟨hr, e⟩ | ⟨es, hr, e⟩ | ⟨b, es, hr, e⟩ <;> rw [e]
  · rw [rxRaw_nil (s.withHidden h) hr]
    exact .next (.of_agree hag)
  · rw [rxRaw_timeout (s.withHidden h) es hr]
    exact .next (.of_idle h rfl)
  · rw [rxRaw_byte (s.withHidden h) b es hr]
    exact hk b es

theorem alike_unesc_andThen {s : State} {h : Hidden} (hag : s.hidden.agree h s.phase)
    {k : Byte → State → Host.Outcome State Fault Refusal}
    (hk : ∀ v es,
      AlikeOutcome (k v { s with rxPending := es, rxcnt := satInc s.rxcnt, escp := false })
        (k v (({ s with rxPending := es, rxcnt := satInc s.rxcnt, escp := false } :
          State).withHidden h))) :
    AlikeOutcome (s.unesc.andThen s k)
      ((s.withHidden h).unesc.andThen (s.withHidden h) k) := by
  rcases unesc_cases s with ⟨hr, e⟩ | ⟨es, hr, e⟩ | ⟨es, hr, he, e⟩ | ⟨b, es, hr, he, hb, e⟩ |
    ⟨b, v, es, hr, ha, e⟩ <;> rw [e]
  · rw [unesc_nil (s.withHidden h) hr]
    exact .next (.of_agree hag)
  · rw [unesc_timeout (s.withHidden h) es hr]
    exact .next (.of_idle h rfl)
  · rw [unesc_first_marker (s.withHidden h) es hr he]
    exact .next ⟨h, rfl, fun _ => hag⟩
  · rw [unesc_lone_marker (s.withHidden h) b es hr he hb]
    exact .next (.of_idle h rfl)
  · rw [unesc_arrives (s.withHidden h) b v es hr ha]
    exact hk v es

theorem alike_withOperand {s : State} (h : Hidden) (n : Byte)
    {k k' : List Byte → Host.Outcome State Fault Refusal} (hk : ∀ bs, AlikeOutcome (k bs) (k' bs)) :
    AlikeOutcome (s.withOperand n k) ((s.withHidden h).withOperand n k') := by
  have hsame : (s.withHidden h).txBytes n = s.txBytes n := rfl
  unfold State.withOperand
  rw [hsame]
  cases s.txBytes n with
  | some bs => exact hk bs
  | none => exact .fault _

/-! ### The engine's turns -/

theorem alike_txTurn {s : State} {h : Hidden} (hag : s.hidden.agree h s.phase) :
    Alike s.txTurn (s.withHidden h).txTurn := by
  by_cases hp : s.phase = .tx
  · have hag' := hag
    rw [hp] at hag'
    obtain ⟨hseq, hpos⟩ := hag'
    have hturn : s.txTurn = s.txStep := if_pos hp
    have hturn' : (s.withHidden h).txTurn = (s.withHidden h).txStep := if_pos hp
    have hseq' : (s.withHidden h).txseq = s.txseq := hseq.symm
    have hpos' : (s.withHidden h).txpos = s.txpos := hpos.symm
    have hroom : (s.withHidden h).txRoom = s.txRoom := rfl
    rw [hturn, hturn']
    unfold State.txStep
    rw [hseq', hpos', hroom]
    cases s.txseq[s.txpos]? with
    | none =>
      dsimp only
      split
      · exact .of_idle h rfl
      · exact .of_agree hag
    | some b =>
      dsimp only
      split
      · exact .of_agree hag
      · split
        · exact .of_idle (s := ({ s.txEmit b with txpos := s.txpos + 1 } : State).complete)
            { h with txpos := s.txpos + 1 } rfl
        · refine ⟨{ h with txpos := s.txpos + 1 }, rfl, fun _ => ?_⟩
          have hp' : ({ s.txEmit b with txpos := s.txpos + 1 } : State).phase = .tx := hp
          rw [hp']
          exact ⟨hseq, rfl⟩
  · have hturn : s.txTurn = s := if_neg hp
    have hturn' : (s.withHidden h).txTurn = s.withHidden h := if_neg hp
    rw [hturn, hturn']
    exact .of_agree hag

/-- PARSE's checksum reads T and L alone of the hidden fields. -/
theorem alike_parseCksum (c : Byte) {s : State} {h : Hidden} (hT : h.hidT = s.hidT)
    (hL : h.hidL = s.hidL) : AlikeOutcome (parseCksum c s) (parseCksum c (s.withHidden h)) := by
  have hT' : (s.withHidden h).hidT = s.hidT := hT
  have hL' : (s.withHidden h).hidL = s.hidL := hL
  have hsame : (s.withHidden h).rxBytes s.hidL = s.rxBytes s.hidL := rfl
  unfold parseCksum
  rw [hT', hL', hsame]
  cases s.rxBytes s.hidL with
  | none => exact .fault _
  | some p =>
    dsimp only
    split
    · exact .next ⟨{ h with hidT := s.hidT, hidL := s.hidL }, rfl, nofun⟩
    · exact .next ⟨{ h with hidT := s.hidT, hidL := s.hidL }, rfl, fun _ => trivial⟩

theorem alike_parseTurn {s : State} {h : Hidden} (hag : s.hidden.agree h s.phase) :
    AlikeOutcome s.parseTurn (s.withHidden h).parseTurn := by
  have hag' := hag
  have hphase : (s.withHidden h).phase = s.phase := rfl
  unfold State.parseTurn
  rw [hphase]
  cases hp : s.phase <;> rw [hp] at hag' <;> dsimp only
  case hunt =>
    refine alike_rxRaw_andThen hag fun b es => .next ?_
    unfold parseHunt
    split
    · exact ⟨h, rfl, fun _ => trivial⟩
    · exact ⟨h, rfl, fun _ => hag⟩
  case type =>
    refine alike_rxRaw_andThen hag fun b es => .next ?_
    unfold parseType
    split
    · exact ⟨{ h with hidT := b }, rfl, fun _ => trivial⟩
    · exact ⟨{ h with hidT := b }, rfl, fun _ => rfl⟩
  case eomStart => exact alike_rxRaw_andThen hag fun b es => .next ⟨h, rfl, fun _ => trivial⟩
  case eomType =>
    exact alike_rxRaw_andThen hag fun b es => .next ⟨{ h with hidT := b }, rfl, fun _ => rfl⟩
  case len =>
    refine alike_unesc_andThen hag fun v es =>
      .next ⟨{ h with hidL := v, idx := 0 }, rfl, fun _ => ?_⟩
    by_cases hv : v = 0
    · simp only [parseLen, if_pos hv]
      exact ⟨hag', rfl⟩
    · simp only [parseLen, if_neg hv]
      exact ⟨hag', rfl, rfl⟩
  case payload =>
    obtain ⟨hT, hL, hI⟩ := hag'
    refine alike_unesc_andThen hag fun v es => .next ⟨{ h with idx := s.idx + 1 }, ?_, fun _ => ?_⟩
    · have hI' : h.idx = s.idx := hI.symm
      have hL' : h.hidL = s.hidL := hL.symm
      simp only [parsePayload, State.withHidden, hI', hL']
    · by_cases hmore : s.idx + 1 < s.hidL.toNat
      · simp only [parsePayload, if_pos hmore]
        exact ⟨hT, hL, rfl⟩
      · simp only [parsePayload, if_neg hmore]
        exact ⟨hT, hL⟩
  case cksum =>
    obtain ⟨hT, hL⟩ := hag'
    exact alike_unesc_andThen hag fun v es => alike_parseCksum v hT.symm hL.symm
  case end1 =>
    exact alike_rxRaw_andThen hag fun b es => .next ⟨{ h with hidE1 := b }, rfl, fun _ => rfl⟩
  case end2 =>
    have hE : h.hidE1 = s.hidE1 := Eq.symm hag'
    refine alike_rxRaw_andThen hag fun b es => .next ?_
    unfold parseEnd2
    simp only [State.withHidden, hE]
    split
    · exact .of_idle { h with hidE1 := s.hidE1 } rfl
    · exact .of_idle { h with hidE1 := s.hidE1 } rfl
  -- IDLE, TX, CALC, UNESC: no phase of PARSE, so no step
  all_goals exact .next (.of_agree hag)

/-- The engine's turn in a command. -/
theorem alike_exec_busy {s : State} {h : Hidden} (hb : s.busy = true)
    (hag : s.hidden.agree h s.phase) (i : Instr) :
    AlikeOutcome (exec i s) (exec i (s.withHidden h)) := by
  have hb' : (s.withHidden h).busy = true := hb
  have hp : (s.withHidden h).phase = s.phase := rfl
  cases i with
  | esc ty len => simpa only [exec, execEsc, hb, hb', if_true] using .next (alike_txTurn hag)
  | frame ty len => simpa only [exec, execFrame, hb, hb', if_true] using .next (alike_txTurn hag)
  | chunk ty len => simpa only [exec, execChunk, hb, hb', if_true] using .next (alike_txTurn hag)
  | parse ty len => simpa only [exec, execParse, hb, hb', if_true] using alike_parseTurn hag
  | cksum ty len =>
    simp only [exec, execCksum, hb, hb', hp, if_true]
    split
    · exact alike_withOperand h len fun bs => .next (.of_idle h rfl)
    · exact .next (.of_agree hag)
  | unesc ty len =>
    simp only [exec, execUnesc, hb, hb', hp, if_true]
    split
    · exact alike_unesc_andThen hag fun v es => .next (.of_idle h rfl)
    · exact .next (.of_agree hag)

/-- The acceptance of a transmit command writes the hidden fields of its phase. -/
theorem alike_startTx (s : State) (h : Hidden) (seq : List Byte) :
    Alike (s.startTx seq) ((s.withHidden h).startTx seq) :=
  ⟨{ h with txseq := seq, txpos := 0 }, rfl, fun _ => ⟨rfl, rfl⟩⟩

/-- The acceptance of a command. -/
theorem alike_exec_idle {s : State} (h : Hidden) (hb : s.busy = false) (i : Instr) :
    AlikeOutcome (exec i s) (exec i (s.withHidden h)) := by
  have hb' : (s.withHidden h).busy = false := hb
  cases i with
  | esc ty len =>
    simp only [exec, execEsc, hb, hb', Bool.false_eq_true, if_false]
    exact alike_withOperand h len fun bs => .next (alike_startTx (s.accept _) h _)
  | frame ty len =>
    simp only [exec, execFrame, hb, hb', Bool.false_eq_true, if_false]
    exact alike_withOperand h len fun bs => .next (alike_startTx (s.accept _) h _)
  | chunk ty len =>
    simp only [exec, execChunk, hb, hb', Bool.false_eq_true, if_false]
    split
    · exact .next (.of_idle h rfl)
    · exact alike_withOperand h len fun bs => .next (alike_startTx (s.accept _) h _)
  | cksum ty len =>
    simp only [exec, execCksum, hb, hb', Bool.false_eq_true, if_false]
    exact alike_withOperand h len fun bs => .next ⟨h, rfl, fun _ => trivial⟩
  | unesc ty len =>
    simp only [exec, execUnesc, hb, hb', Bool.false_eq_true, if_false]
    exact .next ⟨h, rfl, fun _ => trivial⟩
  | parse ty len =>
    simp only [exec, execParse, hb, hb', Bool.false_eq_true, if_false]
    exact .next ⟨h, rfl, fun _ => trivial⟩

theorem Alike.exec {s u : State} (h : Alike s u) (i : Instr) :
    AlikeOutcome (exec i s) (exec i u) := by
  obtain ⟨k, rfl, hag⟩ := h
  cases hb : s.busy with
  | true => exact alike_exec_busy hb (hag hb) i
  | false => exact alike_exec_idle k hb i

/-! ### The turns of the agents -/

/-- Alike states are equal in every visible field. -/
theorem Alike.visible {s u : State} (h : Alike s u) : s.visible = u.visible := by
  obtain ⟨k, rfl, -⟩ := h
  rfl

theorem Alike.engineTurn {s u : State} (h : Alike s u) :
    AlikeOutcome s.engineTurn u.engineTurn := by
  have hv := h.visible
  have hb : u.busy = s.busy := (congrArg State.busy hv :).symm
  have hcmd : u.cmd = s.cmd := (congrArg State.cmd hv :).symm
  unfold State.engineTurn
  rw [hb, hcmd]
  split
  · split
    · exact h.exec _
    · exact .next h
  · exact .next h

theorem alike_writeReg {s : State} {h : Hidden} (hag : s.busy = true → s.hidden.agree h s.phase)
    (r : Reg) (data : Word) : Alike (s.writeReg r data) ((s.withHidden h).writeReg r data) := by
  have hsame : (s.withHidden h).writeReg r data = (s.writeReg r data).withHidden h := by
    cases r <;>
      simp only [State.writeReg, State.writeStatus, State.writeCtrl, State.writeOffset,
        State.writeTxbuf, apply_ite (State.withHidden h)] <;> rfl
  refine ⟨h, hsame, ?_⟩
  rcases writeReg_cases s r data with e | ⟨-, -, e⟩ | ⟨-, -, e⟩ | ⟨-, -, e⟩ | ⟨-, -, e⟩ |
    ⟨-, i, -, e⟩ <;> rw [e]
  case inr.inr.inl => exact nofun
  all_goals exact hag

theorem Alike.hostRead {s u : State} (h : Alike s u) (size : AccessSize) (addr : Nat) :
    AlikeOutcome (s.hostRead size addr) (u.hostRead size addr) := by
  obtain ⟨k, rfl, hag⟩ := h
  have hcfg : (s.withHidden k).cfg = s.cfg := rfl
  have hread (r : Reg) : (s.withHidden k).readReg r = s.readReg r := by cases r <;> rfl
  unfold State.hostRead
  rw [hcfg]
  cases windowReach s.cfg size addr with
  | outside => exact .fault _
  | undefined => exact .refused _
  | reg r =>
    dsimp only
    rw [hread]
    cases s.readReg r with
    | some v => exact .next ⟨k, rfl, hag⟩
    | none => exact .fault _

theorem Alike.writeCmd {s u : State} (h : Alike s u) (w : Word) :
    AlikeOutcome (s.writeCmd w) (u.writeCmd w) := by
  have hb : u.busy = s.busy := (congrArg State.busy h.visible :).symm
  unfold State.writeCmd
  rw [hb]
  split
  · obtain ⟨k, rfl, hag⟩ := h
    exact .next ⟨k, rfl, hag⟩
  · split
    · exact h.exec _
    · obtain ⟨k, rfl, -⟩ := h
      exact .next (.of_idle k rfl)

theorem Alike.hostWrite {s u : State} (h : Alike s u) (size : AccessSize) (addr : Nat)
    (data : Word) : AlikeOutcome (s.hostWrite size addr data) (u.hostWrite size addr data) := by
  have hcfg : u.cfg = s.cfg := (congrArg State.cfg h.visible :).symm
  unfold State.hostWrite
  rw [hcfg]
  split
  · exact .fault _
  · exact .refused _
  · exact h.writeCmd data
  · obtain ⟨k, rfl, hag⟩ := h
    exact .next (alike_writeReg hag _ data)

theorem Alike.turn {s u : State} (h : Alike s u) (a : Action) :
    AlikeOutcome (s.turn a) (u.turn a) := by
  cases a with
  | engine => exact h.engineTurn
  | otherHost | otherWriter => exact .refused _
  | host access =>
    cases access with
    | read size addr => exact h.hostRead size addr
    | write size addr data => exact h.hostWrite size addr data
  | powerOn =>
    obtain ⟨k, rfl, -⟩ := h
    exact .next (.of_idle k rfl)
  | rxOffer | txAccept =>
    obtain ⟨k, rfl, hag⟩ := h
    exact .next ⟨k, rfl, hag⟩

theorem Alike.step {s u : State} (h : Alike s u) : AlikeOutcome (step s) (step u) := by
  have hag : u.agenda = s.agenda := (congrArg State.agenda h.visible :).symm
  cases ha : s.agenda with
  | nil =>
    rw [step_nil s ha, step_nil u (hag.trans ha)]
    exact h.engineTurn
  | cons a rest =>
    rw [step_cons s a rest ha, step_cons u a rest (hag.trans ha)]
    obtain ⟨k, rfl, hagree⟩ := h
    have hrest : Alike { s with agenda := rest } { s.withHidden k with agenda := rest } :=
      ⟨k, rfl, hagree⟩
    exact hrest.turn a

/-- Alike states run alike. -/
theorem Alike.runFor (n : Nat) {s u : State} (h : Alike s u) :
    AlikeOutcome (runFor n s) (runFor n u) := by
  induction n generalizing s u with
  | zero => exact .next h
  | succ n ih =>
    have hstep := h.step
    unfold Machine.runFor
    generalize Machine.step s = o, Machine.step u = p at hstep ⊢
    cases hstep with
    | next h => exact ih h
    | fault => exact .fault _
    | refused => exact .refused _

/-- Settles O57: idle states that look alike are alike, and what is alike stays so. -/
theorem idleHiddenStateNeverShows : Obligations.IdleHiddenStateNeverShows :=
  fun n _ _ hb hv => (Alike.runFor n (.of_visible hb hv)).visible

end Sys2Proof.Machine

/-! ## The accesses of the host as steps (spec 20_memory R60, R61, R64, R78) -/

namespace Sys2Proof.Machine

/-! ### An access outside the window -/

theorem hostRead_outside {s : State} {size : AccessSize} {addr : Nat}
    (h : addr < s.cfg.bscBase ∨ s.cfg.bscBase + windowBytes ≤ addr) :
    s.hostRead size addr = .fault .outsideWindow := by
  rw [State.hostRead, reach_outside s.cfg size addr h]

theorem hostWrite_outside {s : State} {size : AccessSize} {addr : Nat} (data : Word)
    (h : addr < s.cfg.bscBase ∨ s.cfg.bscBase + windowBytes ≤ addr) :
    s.hostWrite size addr data = .fault .outsideWindow := by
  rw [State.hostWrite, reach_outside s.cfg size addr h]

/-- Settles O49: an outside agent's turn is refused, whatever it does; an access outside the window
reaches nothing of the block. -/
theorem outsidersStop : Obligations.OutsidersStop := by
  refine fun s rest a b size addr data =>
    ⟨fun ha => ?_, fun ha => ?_, fun hout => ⟨fun ha => ?_, fun ha => ?_⟩⟩ <;>
    rw [step_cons s _ rest ha]
  · rfl
  · rfl
  · exact hostRead_outside (s := { s with agenda := rest }) hout
  · exact hostWrite_outside (s := { s with agenda := rest }) data hout

/-! ### A read, and the same read again -/

/-- A read that answers is an aligned word read of a register with a value, and changes only the value
the host holds. -/
theorem hostRead_next {s t : State} {size : AccessSize} {addr : Nat}
    (h : s.hostRead size addr = .next t) :
    ∃ off v, off < windowBytes ∧ off % 4 = 0 ∧ addr = s.cfg.bscBase + off ∧ size = .word ∧
      s.readReg (Reg.ofOffset off) = some v ∧ t = { s with rdata := some v } := by
  unfold State.hostRead at h
  rcases reach_cases s.cfg size addr with e | e | ⟨off, hlt, h4, haddr, hsize, e⟩ <;> rw [e] at h
  · cases h
  · cases h
  · cases hv : s.readReg (Reg.ofOffset off) with
    | none => simp [hv] at h
    | some v =>
      simp only [hv, Host.Outcome.next.injEq] at h
      exact ⟨off, v, hlt, h4, haddr, hsize, hv, h.symm⟩

/-- A read of a register does not look at the value the host holds. -/
theorem readReg_rdata (s : State) (v : Option Word) (r : Reg) :
    ({ s with rdata := v } : State).readReg r = s.readReg r := by
  cases r <;> rfl

/-- A read that answered answers the same again, and then changes nothing. -/
theorem hostRead_again {s t : State} {size : AccessSize} {addr : Nat}
    (h : s.hostRead size addr = .next t) : t.hostRead size addr = .next t := by
  obtain ⟨off, v, hlt, h4, rfl, rfl, hv, rfl⟩ := hostRead_next h
  exact hostRead_reg { s with rdata := some v } off v hlt h4 ((readReg_rdata s _ _).trans hv)

/-- Settles O41: the read changes only the value the host holds, and the register it reads still has
that value afterwards. -/
theorem hostReadHasNoSideEffect : Obligations.HostReadHasNoSideEffect := by
  intro s t size addr rest ha hstep
  rw [step_cons s _ rest ha] at hstep
  obtain ⟨-, v, -, -, -, -, -, ht⟩ := hostRead_next hstep
  have hagenda : t.agenda = rest := by rw [ht]
  refine ⟨by rw [ht], ?_⟩
  rw [step_cons _ _ rest rfl, ← hagenda]
  exact hostRead_again hstep

/-! ### The accesses that are refused -/

/-- Inside the window, exactly the accesses that are no aligned word are undefined. -/
theorem reach_undefined_iff (c : Config) (size : AccessSize) {off : Nat} (hlt : off < windowBytes) :
    windowReach c size (c.bscBase + off) = .undefined ↔ size ≠ .word ∨ off % 4 ≠ 0 := by
  refine ⟨fun h => ?_, reach_undefined c size off hlt⟩
  by_contra hdef
  obtain ⟨rfl, h4⟩ : size = .word ∧ off % 4 = 0 := by simpa using hdef
  rw [reach_word c off hlt h4] at h
  cases h

theorem hostRead_refused_iff {s : State} {size : AccessSize} {addr : Nat} :
    s.hostRead size addr = .refused .undefinedAccess ↔
      windowReach s.cfg size addr = .undefined := by
  unfold State.hostRead
  cases windowReach s.cfg size addr with
  | outside | undefined => simp
  | reg r => cases hv : s.readReg r <;> simp [hv]

/-- The acceptance of a command is never refused: an unwritten operand faults (70_reset_and_hazards R231),
and CHUNK's range is an error of the block (60_exceptions R199). -/
theorem exec_idle_ne_refused {s : State} (hb : s.busy = false) (i : Instr) (r : Refusal) :
    exec i s ≠ .refused r := by
  have hoperand (n : Byte) (k : List Byte → State) :
      (s.withOperand n fun bs => .next (k bs)) ≠ .refused r := by
    rcases withOperand_cases s n fun bs => .next (k bs) with ⟨bs, -, -, e⟩ | ⟨-, e⟩ <;> rw [e] <;>
      exact nofun
  cases i <;>
    simp only [exec, execEsc, execUnesc, execCksum, execFrame, execChunk, execParse, hb,
      Bool.false_eq_true, if_false]
  case esc | cksum | frame => exact hoperand _ _
  case chunk =>
    split
    · exact nofun
    · exact hoperand _ _
  case unesc | parse => exact nofun

/-- A write of CMD is never refused: an illegal word is an error of the block (30_encoding R88). -/
theorem writeCmd_ne_refused (s : State) (w : Word) (r : Refusal) : s.writeCmd w ≠ .refused r := by
  cases hb : s.busy with
  | true => rw [writeCmd_busy s w hb]; exact nofun
  | false =>
    cases hd : decode w with
    | ok i => rw [writeCmd_idle s w i hb hd]; exact exec_idle_ne_refused hb i r
    | error e => rw [writeCmd_illegal s w e hb hd]; exact nofun

theorem hostWrite_refused_iff {s : State} {size : AccessSize} {addr : Nat} {data : Word} :
    s.hostWrite size addr data = .refused .undefinedAccess ↔
      windowReach s.cfg size addr = .undefined := by
  unfold State.hostWrite
  cases windowReach s.cfg size addr with
  | outside | undefined => simp
  | reg r => cases r <;> simp [writeCmd_ne_refused]

/-- An aligned word access of a reserved offset answers: a read returns 0, a write does nothing
(spec 10_state R23). -/
theorem step_reserved {s : State} {off : Nat} {data : Word} {rest : List Action}
    (hlt : off < windowBytes) (h4 : off % 4 = 0) (hres : 0x030 ≤ off ∧ off < 0x400 ∨ 0xC00 ≤ off)
    (ha : s.agenda = .host (.read .word (s.cfg.bscBase + off)) :: rest ∨
      s.agenda = .host (.write .word (s.cfg.bscBase + off) data) :: rest) :
    ∃ t, step s = .next t := by
  rcases ha with ha | ha
  · exact ⟨_, step_read ha hlt h4 (v := 0) (by rw [ofOffset_reserved off hres]; rfl)⟩
  · exact ⟨_, step_write ha hlt h4 (by omega)⟩

/-- Settles O48: an access is refused exactly when the address and the size reach nothing defined; an
access that reaches a register answers or faults. -/
theorem undefinedAccessesRefused : Obligations.UndefinedAccessesRefused := by
  intro s size off data rest hlt ha
  refine ⟨?_, fun hsize h4 hres => ?_⟩
  · rw [← reach_undefined_iff s.cfg size hlt]
    rcases ha with ha | ha <;> rw [step_cons s _ rest ha]
    · exact hostRead_refused_iff (s := { s with agenda := rest })
    · exact hostWrite_refused_iff (s := { s with agenda := rest })
  · subst hsize
    exact step_reserved hlt h4 hres ha

end Sys2Proof.Machine

/-! ## The fields of a command word, and the words that stand for none (spec 30_encoding R80, R82, R88) -/

namespace Sys2Proof

section WordFields

variable (w : Word)

theorem opField_toNat : (opField w).toNat = w.toNat % 16 := by
  rw [opField, extractLsb'_toNat_eq_div]
  omega

theorem rsv0Field_toNat : (rsv0Field w).toNat = w.toNat / 16 % 16 := by
  rw [rsv0Field, extractLsb'_toNat_eq_div]
  rfl

theorem typeField_toNat : (typeField w).toNat = w.toNat / 2 ^ 8 % 2 ^ 8 := by
  rw [typeField, extractLsb'_toNat_eq_div]

theorem lenField_toNat : (lenField w).toNat = w.toNat / 2 ^ 16 % 2 ^ 8 := by
  rw [lenField, extractLsb'_toNat_eq_div]

/-- RSV1 holds the topmost bits, so nothing stands above it. -/
theorem rsv1Field_toNat : (rsv1Field w).toNat = w.toNat / 2 ^ 24 := by
  have hw := w.isLt
  rw [rsv1Field, extractLsb'_toNat_eq_div]
  omega

end WordFields

/-- A word with zero reserved fields is packed from its other fields: they cover every other bit. -/
theorem packWord_fields {w : Word} (h0 : rsv0Field w = 0) (h1 : rsv1Field w = 0) :
    packWord (opField w) (typeField w) (lenField w) = w := by
  have h0 : w.toNat / 16 % 16 = 0 := by rw [← rsv0Field_toNat, h0]; rfl
  have h1 : w.toNat / 2 ^ 24 = 0 := by rw [← rsv1Field_toNat, h1]; rfl
  apply BitVec.eq_of_toNat_eq
  rw [packWord_toNat, opField_toNat, typeField_toNat, lenField_toNat]
  omega

/-- A word that decodes has zero reserved fields, and its command is packed from the word's own fields. -/
theorem fields_of_decode {w : Word} {i : Instr} (h : decode w = .ok i) :
    rsv0Field w = 0 ∧ rsv1Field w = 0 ∧
      encode i = packWord (opField w) (typeField w) (lenField w) := by
  unfold decode at h
  split at h
  · cases h
  · next hrsv =>
    simp only [ne_eq, not_or, Decidable.not_not] at hrsv
    refine ⟨hrsv.1, hrsv.2, ?_⟩
    have hpack (op : BitVec 4) (hop : (opField w).toNat = op.toNat) :
        packWord op (typeField w) (lenField w) =
          packWord (opField w) (typeField w) (lenField w) := by
      rw [BitVec.eq_of_toNat_eq hop]
    split at h
    case h_7 => cases h
    all_goals
      next hop => cases h; exact hpack _ hop

/-- The command of a word encodes to that word again. -/
theorem encode_of_decode {w : Word} {i : Instr} (h : decode w = .ok i) : encode i = w := by
  obtain ⟨h0, h1, hpack⟩ := fields_of_decode h
  rw [hpack, packWord_fields h0 h1]

/-- Settles O1: a command's word has its fields where the decoder reads them, and a word that decodes
is packed from its fields. -/
theorem decodeInvertsEncode : Obligations.DecodeInvertsEncode :=
  ⟨decode_encode, fun _ _ => encode_of_decode⟩

/-- A word stands for no command exactly when a reserved field is not zero or its OP is no row's. -/
theorem decode_error_iff (w : Word) :
    (∃ e, decode w = .error e) ↔
      (rsv0Field w ≠ 0 ∨ rsv1Field w ≠ 0) ∨ (opField w).toNat = 0 ∨ 7 ≤ (opField w).toNat := by
  unfold decode
  split
  · next hrsv => exact iff_of_true ⟨_, rfl⟩ (.inl hrsv)
  · next hrsv =>
    simp only [hrsv, false_or]
    split
    case h_7 =>
      simp only [imp_false] at *
      exact iff_of_true ⟨_, rfl⟩ (by omega)
    all_goals exact iff_of_false (by simp) (by omega)

/-- Settles O2: the decoder's reserved cases, each field read as a number. -/
theorem illegalWordsAreTheReservedOnes : Obligations.IllegalWordsAreTheReservedOnes := by
  intro w
  simp only [decode_error_iff, BitVec.toNat_ne, BitVec.ofNat_eq_ofNat, BitVec.toNat_ofNat,
    Nat.zero_mod, rsv0Field_toNat, rsv1Field_toNat, opField_toNat]
  tauto

/-- Settles O3: each row's OP, TYPE and LEN at their places in the packed word. -/
theorem assemblerWords : Obligations.AssemblerWords := by
  refine ⟨fun n => ?_, rfl, fun n => ?_, fun t n => ?_, fun t n => ?_, rfl, rfl, rfl, rfl⟩ <;>
    exact packWord_toNat _ _ _

/-- Settles O4: a legal word is its command's own, so it decodes by the round trip; of the others the
decoder finds the reserved OP or field. -/
theorem tableWordsDecode : Obligations.TableWordsDecode :=
  ⟨decode_encode (.esc 0 3), decode_encode (.unesc 0xFF 0), decode_encode (.cksum 0 3),
    decode_encode (.frame 0xFE 2), decode_encode (.chunk 0x24 10), decode_encode (.parse 0x55 0xFF),
    rfl, rfl, rfl⟩

end Sys2Proof

namespace Sys2Proof.Machine

/-! ## Acceptance, command by command (spec 30_encoding R87) -/

section Acceptance

variable {s : State} (hb : s.busy = false) (ty len : Byte)

include hb

theorem exec_esc_idle :
    exec (.esc ty len) s = s.withOperand len fun bs =>
      .next ((s.accept (encode (.esc ty len))).startTx (escape bs)) := by
  simp [exec, execEsc, hb]

theorem exec_unesc_idle :
    exec (.unesc ty len) s = .next ((s.accept (encode (.unesc ty len))).start .unesc) := by
  simp [exec, execUnesc, hb]

theorem exec_cksum_idle :
    exec (.cksum ty len) s = s.withOperand len fun _ =>
      .next ((s.accept (encode (.cksum ty len))).start .calc) := by
  simp [exec, execCksum, hb]

theorem exec_frame_idle :
    exec (.frame ty len) s = s.withOperand len fun bs =>
      .next ((s.accept (encode (.frame ty len))).startTx
        (encodeFrame s.cfg.lenStuffedOnTx ty len bs)) := by
  simp [exec, execFrame, hb]

theorem exec_chunk_idle (hn : len.toNat ≤ chunkMax) :
    exec (.chunk ty len) s = s.withOperand len fun bs =>
      .next ((s.accept (encode (.chunk ty len))).startTx
        (encodeFrame s.cfg.lenStuffedOnTx ty (len + 4) (le32 s.offset ++ bs))) := by
  simp [exec, execChunk, hb, Nat.not_lt.mpr hn]

/-- CHUNK over its limit raises before any operand byte is read (60_exceptions R199). -/
theorem exec_chunk_over (hn : chunkMax < len.toNat) :
    exec (.chunk ty len) s = .next ((s.accept (encode (.chunk ty len))).raise .lenRange) := by
  simp [exec, execChunk, hb, hn]

theorem exec_parse_idle :
    exec (.parse ty len) s = .next ((s.accept (encode (.parse ty len))).start .hunt) := by
  simp [exec, execParse, hb]

end Acceptance

/-- The engine's turn in CKSUM is its one step. -/
theorem exec_cksum_calc {s : State} (hb : s.busy = true) (hp : s.phase = .calc) (ty len : Byte) :
    exec (.cksum ty len) s =
      s.withOperand len fun bs => .next ({ s with result := checksum bs } : State).complete := by
  simp [exec, execCksum, hb, hp]

/-- What uses a whole operand faults exactly where a byte of it is unwritten
(70_reset_and_hazards R231). -/
theorem withOperand_fault_iff (s : State) (n : Byte) (k : List Byte → State) :
    (s.withOperand n fun bs => .next (k bs)) = .fault .unwrittenOperand ↔
      ∃ j, j < n.toNat ∧ s.txbuf.read j = none := by
  rcases withOperand_cases s n fun bs => .next (k bs) with ⟨bs, hl, hh, e⟩ | ⟨hunwritten, e⟩ <;>
    rw [e]
  · refine iff_of_false nofun ?_
    rintro ⟨j, hj, hr⟩
    rw [hh j (by omega), List.getElem?_eq_none_iff] at hr
    omega
  · exact iff_of_true rfl hunwritten

/-- Settles O13: every acceptance but an over-long CHUNK's uses its whole operand. -/
theorem unwrittenOperandFaultsAtAcceptance : Obligations.UnwrittenOperandFaultsAtAcceptance := by
  intro s ty len hb
  rw [exec_esc_idle hb, exec_cksum_idle hb, exec_frame_idle hb]
  refine ⟨withOperand_fault_iff s len _, withOperand_fault_iff s len _,
    withOperand_fault_iff s len _, ?_⟩
  by_cases hn : len.toNat ≤ chunkMax
  · rw [exec_chunk_idle hb ty len hn, withOperand_fault_iff]
    exact (and_iff_right hn).symm
  · rw [exec_chunk_over hb ty len (Nat.lt_of_not_le hn)]
    exact iff_of_false nofun fun h => hn h.1

/-! ## The length of a frame (spec 40_codec R111, 42_framer R140, R143) -/

/-- escape adds one byte for each marker. -/
theorem escape_length (bs : List Byte) : (escape bs).length = bs.length + bs.count marker := by
  induction bs with
  | nil => rfl
  | cons b bs ih =>
    by_cases hb : b = marker
    · subst hb
      rw [escape_marker_cons, List.length_cons, List.length_cons, List.length_cons,
        List.count_cons_self, ih]
      omega
    · rw [escape_cons_ne b bs hb, List.length_cons, List.length_cons, List.count_cons_of_ne hb, ih]
      omega

/-- One byte escaped takes two bytes exactly where it is the marker. -/
theorem escape_singleton_length (b : Byte) : (escape [b]).length = if b = marker then 2 else 1 := by
  rw [escape_length, List.count_singleton, List.length_singleton]
  simp only [beq_iff_eq]
  split <;> rfl

theorem escLen_length (stuffed : Bool) (l : Byte) :
    (escLen stuffed l).length = if stuffed = true ∧ l = marker then 2 else 1 := by
  cases stuffed
  · simp [escLen]
  · simp [escLen, escape_singleton_length]

/-- The wire length of a frame: four raw bytes and the three fields (spec 42_framer R140). -/
theorem encodeFrame_length (stuffed : Bool) (t l : Byte) (body : List Byte) :
    (encodeFrame stuffed t l body).length =
      4 + (if stuffed = true ∧ l = marker then 2 else 1) + (body.length + body.count marker)
        + (if checksum (t :: l :: body) = marker then 2 else 1) := by
  simp only [encodeFrame, List.length_append, List.length_cons, List.length_nil, escLen_length,
    escape_singleton_length, escape_length body]
  omega

/-- Every field takes at least one wire byte, an empty body none. -/
theorem le_encodeFrame_length (stuffed : Bool) (t l : Byte) (body : List Byte) :
    6 ≤ (encodeFrame stuffed t l body).length := by
  rw [encodeFrame_length]
  split <;> split <;> omega

theorem byteSum_replicate (n : Nat) (b : Byte) : byteSum (List.replicate n b) = n * b.toNat := by
  induction n with
  | zero => simp
  | succ n ih => rw [List.replicate_succ, byteSum_cons, ih, Nat.succ_mul, Nat.add_comm]

/-- The checksum of the longest frame is the marker: its bytes sum to 1 + 255 + 255 * 16,
which is 240 mod 256. -/
theorem checksum_longest :
    checksum ((0x01 : Byte) :: 255 :: List.replicate 255 marker) = marker := by
  apply BitVec.eq_of_toNat_eq
  rw [checksum_toNat, byteSum_cons, byteSum_cons, byteSum_replicate]
  rfl

/-- The longest frame: a doubled checksum and 255 doubled markers. -/
theorem encodeFrame_longest (stuffed : Bool) :
    (encodeFrame stuffed 0x01 255 (List.replicate 255 marker)).length = 517 := by
  have hl : ¬(stuffed = true ∧ (255 : Byte) = marker) := fun h => absurd h.2 (by decide)
  rw [encodeFrame_length, if_neg hl, if_pos checksum_longest, List.count_replicate_self,
    List.length_replicate]

/-- Settles O30: the length formula, its bounds, an empty frame at the lower one and 255 markers at the
upper one. -/
theorem frameWireLength : Obligations.FrameWireLength := by
  refine ⟨fun st t p hp => ?_, fun st t hc => ?_, fun st => ?_⟩
  · have hl : (BitVec.ofNat 8 p.length).toNat = p.length := Nat.mod_eq_of_lt (by omega)
    have hm : BitVec.ofNat 8 p.length = marker ↔ p.length = 16 := by
      rw [BitVec.toNat_eq, hl]
      rfl
    refine ⟨?_, le_encodeFrame_length _ _ _ _, encodeFrame_length_le _ _ _ _ hl.symm⟩
    rw [encodeFrame_length]
    simp only [hm]
    rfl
  · have hl : ¬(st = true ∧ (0 : Byte) = marker) := fun h => absurd h.2 (by decide)
    rw [encodeFrame_length, if_neg hl, if_neg (c := checksum [t, 0] = marker) hc]
    rfl
  · exact encodeFrame_longest st

/-! ## Markers in an escaped sequence (spec 40_codec R111) -/

theorem escape_append (a b : List Byte) : escape (a ++ b) = escape a ++ escape b := by
  induction a with
  | nil => rfl
  | cons x a ih =>
    by_cases hx : x = marker
    · subst hx; simp [ih]
    · simp [escape_cons_ne _ _ hx, ih]

/-- Dropping the head of a sequence does not bring another element to its end. -/
theorem getLast?_ne_of_cons {α : Type} {x c : α} {u : List α} (h : (c :: u).getLast? ≠ some x) :
    u.getLast? ≠ some x := by
  intro hu
  rw [List.getLast?_cons, hu] at h
  exact h rfl

/-- A maximal run of markers in an escaped sequence has even length: by induction on the sequence, whose
head gives one byte that is no marker or a pair of markers. -/
theorem escape_run_even {bs u v : List Byte} {n : Nat}
    (h : escape bs = u ++ List.replicate n marker ++ v)
    (hu : u.getLast? ≠ some marker) (hv : v.head? ≠ some marker) : n % 2 = 0 := by
  induction bs generalizing u n with
  | nil =>
    cases n with
    | zero => rfl
    | succ n => simp [List.replicate_succ] at h
  | cons b bs ih =>
    by_cases hb : b = marker
    · subst hb
      rw [escape_marker_cons] at h
      match u, n with
      | [], 0 => rfl
      | [], 1 =>
        obtain rfl : marker :: escape bs = v := by simpa using h
        exact absurd rfl hv
      | [], n + 2 =>
        have := ih (u := []) (n := n) (by simpa [List.replicate_succ] using h) hu
        omega
      | [c], _ =>
        obtain rfl : marker = c := (List.cons.inj h).1
        exact absurd rfl hu
      | c :: d :: u, _ =>
        simp only [List.cons_append, List.cons.injEq] at h
        exact ih h.2.2 (getLast?_ne_of_cons (getLast?_ne_of_cons hu))
    · rw [escape_cons_ne b bs hb] at h
      match u, n with
      | [], 0 => rfl
      | [], n + 1 =>
        simp only [List.replicate_succ, List.nil_append, List.cons_append, List.cons.injEq] at h
        exact absurd h.1 hb
      | c :: u, _ =>
        simp only [List.cons_append, List.cons.injEq] at h
        exact ih h.2 (getLast?_ne_of_cons hu)

/-- Settles O31: with a stuffed length byte the middle of a frame is one escaped sequence. -/
theorem frameShowsMarkersOnlyInPairs : Obligations.FrameShowsMarkersOnlyInPairs := by
  intro t l p
  refine ⟨escape ([l] ++ p ++ [checksum ([t, l] ++ p)]), ?_, rfl,
    fun u v n h hu hv => escape_run_even h hu hv⟩
  rw [escape_append, escape_append]
  simp [encodeFrame, escLen, marker, endByte]

/-! ## The next state of each acceptance (spec 30_encoding R87, 60_exceptions R192, R198, R199) -/

/-- Settles O6: a word with a reserved OP or field decodes to nothing, so its write is rejected. -/
theorem illegalWordRaisesIllegalCmd : Obligations.IllegalWordRaisesIllegalCmd := by
  intro s w rest ha hb hw
  obtain ⟨e, hd⟩ := (illegalWordsAreTheReservedOnes w).mpr hw
  rw [step_cons s _ rest ha]
  exact (hostWrite_cmd { s with agenda := rest } w).trans (writeCmd_illegal _ w e hb hd)

/-- Settles O7: the operand is written, so the acceptance fixes its escaped form. -/
theorem escAccepted : Obligations.EscAccepted := by
  intro s ty len bs hb hl hh
  exact exec_transmit_accept ⟨ty, .inl rfl⟩ hb hl hh rfl

/-- Settles O8: the statement's sequence is R140's frame, written out. -/
theorem frameAccepted : Obligations.FrameAccepted := by
  intro s ty len bs hb hl hh
  exact exec_transmit_accept ⟨ty, .inr (.inl rfl)⟩ hb hl hh rfl

/-- Settles O9: N + 4 as a byte is the byte N plus 4. -/
theorem chunkAccepted : Obligations.ChunkAccepted := by
  intro s ty len bs hb hn hl hh
  have hlen : BitVec.ofNat 8 (len.toNat + 4) = len + 4 := by
    rw [BitVec.ofNat_add, BitVec.ofNat_toNat, BitVec.setWidth_eq]
    rfl
  rw [hlen]
  exact exec_transmit_accept ⟨ty, .inr (.inr ⟨rfl, hn⟩)⟩ hb hl hh rfl

/-- Settles O10: an over-long CHUNK raises whatever TXBUF holds. -/
theorem chunkOverLimitRaisesLenRange : Obligations.ChunkOverLimitRaisesLenRange :=
  fun _ ty len hb hn => exec_chunk_over hb ty len hn

/-- Settles O11: the acceptance and the step both use the operand, which is written. -/
theorem cksumAcceptedThenComputes : Obligations.CksumAcceptedThenComputes := by
  intro s ty len bs hl hh
  refine ⟨fun hb => ?_, fun hb hp => ?_⟩
  · rw [exec_cksum_idle hb, withOperand_of_holds s len bs _ hl hh]
    rfl
  · rw [exec_cksum_calc hb hp, withOperand_of_holds s len bs _ hl hh]
    rfl

/-- Settles O12: each receive command starts in its first phase, without an operand. -/
theorem receiveCommandsAccepted : Obligations.ReceiveCommandsAccepted :=
  fun _ ty len hb => ⟨exec_unesc_idle hb ty len, exec_parse_idle hb ty len⟩

end Sys2Proof.Machine

/-! ## escape and its inversion (spec 40_codec R110, R111) -/

namespace Sys2Proof.Machine

/-- Only the empty sequence escapes to the empty one. -/
theorem escape_eq_nil_iff {bs : List Byte} : escape bs = [] ↔ bs = [] := by
  rw [← List.length_eq_zero_iff, escape_length, Nat.add_eq_zero_iff, List.length_eq_zero_iff]
  exact and_iff_left_of_imp fun h => by rw [h, List.count_nil]

/-- An escaped sequence that begins with the marker is that of a sequence which does, and begins
with a pair. -/
theorem escape_eq_marker_cons_iff {bs rest : List Byte} :
    escape bs = marker :: rest ↔ ∃ cs, bs = marker :: cs ∧ rest = marker :: escape cs := by
  refine ⟨fun h => ?_, fun ⟨cs, hbs, hrest⟩ => by rw [hbs, hrest, escape_marker_cons]⟩
  cases bs with
  | nil => cases h
  | cons b bs =>
    by_cases hb : b = marker
    · subst hb
      exact ⟨bs, rfl, (List.cons.inj h).2.symm⟩
    · rw [escape_cons_ne b bs hb] at h
      exact absurd (List.cons.inj h).1 hb

/-- An escaped sequence that begins with another byte is that of a sequence which does. -/
theorem escape_eq_cons_iff {c : Byte} (hc : c ≠ marker) {bs rest : List Byte} :
    escape bs = c :: rest ↔ ∃ cs, bs = c :: cs ∧ rest = escape cs := by
  refine ⟨fun h => ?_, fun ⟨cs, hbs, hrest⟩ => by rw [hbs, hrest, escape_cons_ne c cs hc]⟩
  cases bs with
  | nil => cases h
  | cons b bs =>
    by_cases hb : b = marker
    · subst hb
      exact absurd (List.cons.inj h).1.symm hc
    · rw [escape_cons_ne b bs hb] at h
      obtain ⟨rfl, rfl⟩ := List.cons.inj h
      exact ⟨bs, rfl, rfl⟩

/-- escape is injective: the head of an escaped sequence tells the head of the sequence. -/
theorem escape_injective : Function.Injective escape := by
  intro a
  induction a with
  | nil => exact fun b h => (escape_eq_nil_iff.mp h.symm).symm
  | cons x a ih =>
    intro b h
    by_cases hx : x = marker
    · subst hx
      obtain ⟨cs, rfl, htail⟩ := escape_eq_marker_cons_iff.mp h.symm
      rw [ih (List.cons.inj htail).2]
    · rw [escape_cons_ne x a hx] at h
      obtain ⟨cs, rfl, htail⟩ := (escape_eq_cons_iff hx).mp h.symm
      rw [ih htail]

/-- A sequence without a marker is its own escaped form. -/
theorem escape_of_forall_ne {bs : List Byte} (h : ∀ b ∈ bs, b ≠ marker) : escape bs = bs := by
  induction bs with
  | nil => rfl
  | cons b bs ih =>
    rw [List.forall_mem_cons] at h
    rw [escape_cons_ne b bs h.1, ih h.2]

/-- escape works byte by byte, without a state of its own. -/
theorem escape_eq_flatten (bs : List Byte) :
    escape bs = (bs.map fun b => if b = marker then [marker, marker] else [b]).flatten := by
  induction bs with
  | nil => rfl
  | cons b bs ih =>
    rw [List.map_cons, List.flatten_cons, ← ih]
    by_cases hb : b = marker
    · rw [if_pos hb, hb]; rfl
    · rw [if_neg hb, escape_cons_ne b bs hb]; rfl

/-- Settles O26: byte by byte, and the three cases R110 names. -/
theorem escapeDoublesEveryMarker : Obligations.EscapeDoublesEveryMarker :=
  ⟨escape_eq_flatten, rfl, rfl, fun _ => escape_of_forall_ne⟩

/-- Settles O27: the length counts the markers, runs of markers are even, and an escaped sequence
can be read back from its head. -/
theorem escapeLaws : Obligations.EscapeLaws := by
  refine ⟨fun s => ?_, escape_append, fun s u v n => escape_run_even, fun a b rest h => ?_,
    fun _ _ h => escape_injective h⟩
  · have hlen : (escape s).length = s.length + s.count 0x10 := escape_length s
    exact ⟨hlen, by omega, escape_length_le s⟩
  · obtain ⟨cs, -, rfl⟩ := escape_eq_marker_cons_iff.mp h
    exact ⟨by rw [escape_append, h], rfl⟩

/-! ## What a receive primitive raises (spec 40_codec R113, R115, 60_exceptions R196, R197) -/

/-- PARSE's step in each of its phases begins with a receive primitive. -/
theorem parseTurn_receiving {s : State} {ty len : Byte} (hp : s.phase ∈ phasesOf (.parse ty len)) :
    ∃ k, s.parseTurn = s.rxRaw.andThen s k ∨ s.parseTurn = s.unesc.andThen s k := by
  unfold State.parseTurn
  cases h : s.phase
  case hunt | type | eomStart | eomType | end1 | end2 => exact ⟨_, .inl rfl⟩
  case len | payload | cksum => exact ⟨_, .inr rfl⟩
  -- the other phases are none of PARSE's
  all_goals simp [h, phasesOf] at hp

/-- A receiving command's turn begins with a receive primitive, in UNESC as in PARSE. -/
theorem exec_receiving {s : State} {i : Instr} (hb : s.busy = true) (hr : receiving i s.phase) :
    ∃ k, exec i s = s.rxRaw.andThen s k ∨ exec i s = s.unesc.andThen s k := by
  obtain ⟨ty, len, rfl, hp⟩ | ⟨ty, len, rfl, hp⟩ := hr
  · exact ⟨_, .inr (exec_unesc_receiving ty len hb hp)⟩
  · rw [exec_parse_busy ty len hb]
    exact parseTurn_receiving hp

/-- Settles O16: both receive primitives hand a Timeout on as the error. -/
theorem timeoutRaisesRxTimeout : Obligations.TimeoutRaisesRxTimeout := by
  intro s i rest hb hr hrx
  obtain ⟨k, hk | hk⟩ := exec_receiving hb hr
  · rw [hk, rxRaw_timeout s rest hrx, andThen_failed]
    rfl
  · rw [hk, unesc_timeout s rest hrx, andThen_failed]
    rfl

/-- Settles O18: after a first marker unesc takes no byte but a second one. -/
theorem loneMarkerRaisesFramingDesync : Obligations.LoneMarkerRaisesFramingDesync := by
  intro s i b rest hb hr he hne hrx
  obtain ⟨k, hk⟩ := exec_receivingEscaped hb hr
  rw [hk, unesc_lone_marker s b rest hrx he hne, andThen_failed]
  rfl

/-! ## UNESC's run over an escaped byte (spec 40_codec R114, R116, R117) -/

/-- With no turn listed the step is the engine's, in UNESC one escaped receive step. -/
theorem step_unesc {s : State} {ty len : Byte} (ha : s.agenda = []) (hb : s.busy = true)
    (hp : s.phase = .unesc) (hd : decode s.cmd = .ok (.unesc ty len)) :
    step s = s.unesc.andThen s fun b u => .next ({ u with result := b } : State).complete := by
  rw [step_nil s ha, engineTurn_busy s _ hb hd, exec_unesc_receiving ty len hb hp]

/-- The byte that completes an escaped byte completes UNESC. -/
theorem step_unesc_arrives {s : State} {ty len b v : Byte} {rest : List RxEvent}
    (ha : s.agenda = []) (hb : s.busy = true) (hp : s.phase = .unesc)
    (hd : decode s.cmd = .ok (.unesc ty len)) (hrx : s.rxPending = .byte b :: rest)
    (hv : arrives s b v) :
    step s = .next ({ s with
      rxPending := rest, rxcnt := satInc s.rxcnt, result := v } : State).complete := by
  rw [step_unesc ha hb hp hd, unesc_arrives s b v rest hrx hv, andThen_got]
  rfl

/-- A running UNESC reads the escaped form of one byte, one wire byte a step: a marker in two steps,
any other byte in one. -/
theorem runFor_unesc {s : State} {ty len b : Byte} {rest : List RxEvent}
    (ha : s.agenda = []) (hb : s.busy = true) (hp : s.phase = .unesc)
    (hd : decode s.cmd = .ok (.unesc ty len)) (he : s.escp = false) (hcnt : s.rxcnt = 0)
    (hrx : s.rxPending = offered (escape [b]) ++ rest) :
    runFor (escape [b]).length s = .next ({ s with
      rxPending := rest, rxcnt := BitVec.ofNat 32 (escape [b]).length, result := b } :
        State).complete := by
  by_cases hm : b = marker
  · subst hm
    have hfirst := step_unesc ha hb hp hd
    rw [unesc_first_marker s (.byte marker :: rest) hrx he, andThen_more] at hfirst
    have hsecond := step_unesc_arrives (v := marker)
      (s := { s with rxPending := .byte marker :: rest, rxcnt := satInc s.rxcnt, escp := true })
      ha hb hp hd rfl (.inr ⟨rfl, rfl, rfl⟩)
    refine (runFor_succ 1 s _ hfirst).trans ((runFor_succ 0 _ _ hsecond).trans ?_)
    rw [runFor_zero, hcnt]
    rfl
  · rw [escape_cons_ne b [] hm] at hrx ⊢
    refine (runFor_succ 0 s _ (step_unesc_arrives ha hb hp hd hrx (.inl ⟨he, hm, rfl⟩))).trans ?_
    rw [runFor_zero, hcnt]
    rfl

/-- Settles O34: the acceptance clears ESCP and RXCNT, then UNESC reads the escaped form. -/
theorem unescInvertsEscape : Obligations.UnescInvertsEscape := by
  intro s ty len b rest hb ha hrx
  have haccept := step_cmdWrite_idle ha hb (decode_encode (.unesc ty len))
  rw [exec_unesc_idle (s := { s with agenda := [] }) hb] at haccept
  rw [Nat.add_comm 1, runFor_succ _ s _ haccept,
    runFor_unesc
      (s := (({ s with agenda := [] } : State).accept (encode (.unesc ty len))).start .unesc)
      rfl rfl rfl (decode_encode (.unesc ty len)) rfl rfl hrx]
  rfl

end Sys2Proof.Machine

/-! ## The checksum (spec 41_checksum R130, R132)

In the arithmetic of bytes the checksum is the negation of the sum: R132's laws are laws of a negated
sum. -/

namespace Sys2Proof.Machine

/-- The model's sum is the library's. -/
theorem byteSum_eq_sum (s : List Byte) : byteSum s = (s.map BitVec.toNat).sum := by
  induction s with
  | nil => rfl
  | cons b s ih => rw [byteSum_cons, ih, List.map_cons, List.sum_cons]

theorem byteSum_perm {a b : List Byte} (h : a.Perm b) : byteSum a = byteSum b := by
  rw [byteSum_eq_sum, byteSum_eq_sum]
  exact (h.map BitVec.toNat).sum_eq

theorem checksum_eq_neg (s : List Byte) : checksum s = -BitVec.ofNat 8 (byteSum s) := by
  apply BitVec.eq_of_toNat_eq
  rw [checksum_toNat, BitVec.toNat_neg, BitVec.toNat_ofNat]

theorem checksum_append (a b : List Byte) : checksum (a ++ b) = checksum a + checksum b := by
  rw [checksum_eq_neg, checksum_eq_neg a, checksum_eq_neg b, byteSum_append, BitVec.ofNat_add,
    neg_add]

/-- One byte more takes its value off the checksum. -/
theorem checksum_cons (b : Byte) (s : List Byte) : checksum (b :: s) = checksum s - b := by
  rw [checksum_eq_neg, checksum_eq_neg s, byteSum_cons, BitVec.ofNat_add, BitVec.ofNat_toNat,
    BitVec.setWidth_eq, neg_add_rev, sub_eq_add_neg]

/-- R132 (a): the checksum brings the sum to a multiple of 256. -/
theorem byteSum_add_checksum (s : List Byte) : (byteSum s + (checksum s).toNat) % 256 = 0 := by
  rw [checksum_toNat]
  omega

/-- R132 (b): a sequence followed by its checksum has checksum 0. -/
theorem checksum_append_checksum (s : List Byte) : checksum (s ++ [checksum s]) = 0 := by
  have hnil : checksum [] = 0 := rfl
  rw [checksum_append, checksum_cons, hnil, zero_sub, add_neg_cancel]

/-- R132 (c): the order of the bytes does not matter. -/
theorem checksum_perm {a b : List Byte} (h : a.Perm b) : checksum a = checksum b := by
  rw [checksum_eq_neg, checksum_eq_neg b, byteSum_perm h]

/-- R132 (c): a zero byte does not matter. -/
theorem checksum_insert_zero (a b : List Byte) : checksum (a ++ 0 :: b) = checksum (a ++ b) := by
  rw [checksum_append, checksum_cons, sub_zero, ← checksum_append]

/-- R132 (d): one byte changed from x to y changes the checksum by x - y. -/
theorem checksum_change (a b : List Byte) (x y : Byte) :
    checksum (a ++ y :: b) = checksum (a ++ x :: b) + (x - y) := by
  simp only [checksum_append, checksum_cons]
  abel

/-- R132 (d): every change of one byte is detected. -/
theorem checksum_change_ne (a b : List Byte) {x y : Byte} (h : x ≠ y) :
    checksum (a ++ y :: b) ≠ checksum (a ++ x :: b) := by
  rw [checksum_change a b x y, ne_eq, add_eq_left, sub_eq_zero]
  exact h

/-- Settles O28: the model's sum is the one of the rule's formula. -/
theorem checksumIsTwosComplementOfSum : Obligations.ChecksumIsTwosComplementOfSum := by
  intro s
  rw [← byteSum_eq_sum]
  refine ⟨checksum_toNat s, fun h => ?_⟩
  apply BitVec.eq_of_toNat_eq
  rw [checksum_toNat, h]
  rfl

/-- Settles O29: the laws (a) to (e) in the rule's order. -/
theorem checksumLaws : Obligations.ChecksumLaws := by
  refine ⟨fun s => ?_, checksum_append_checksum, fun _ _ => checksum_perm, checksum_insert_zero,
    fun a b x y h => ⟨checksum_change_ne a b h, checksum_change a b x y⟩, fun a b => ?_⟩
  · rw [← byteSum_eq_sum]
    exact byteSum_add_checksum s
  · rw [checksum_append, BitVec.toNat_add]

end Sys2Proof.Machine

namespace Sys2Proof.Machine

/-! ## What a buffer holds after a run of writes (spec 42_framer R169) -/

/-- The bytes bs written from index a on, lowest first. -/
def Memory.writeFrom (m : Memory) (a : Nat) : List Byte → Memory
  | [] => m
  | b :: bs => Memory.writeFrom (m.write a b) (a + 1) bs

theorem read_writeFrom_outside {m : Memory} {a k : Nat} {bs : List Byte}
    (hk : k < a ∨ a + bs.length ≤ k) : (m.writeFrom a bs).read k = m.read k := by
  induction bs generalizing m a with
  | nil => rfl
  | cons b bs ih =>
    rw [List.length_cons] at hk
    rw [Memory.writeFrom, ih (by omega), read_write_ne m a k b (by omega)]

theorem read_writeFrom_inside {m : Memory} {a k : Nat} {bs : List Byte} (hk : k < bs.length) :
    (m.writeFrom a bs).read (a + k) = bs[k]? := by
  induction bs generalizing m a k with
  | nil => exact absurd hk (Nat.not_lt_zero k)
  | cons b bs ih =>
    rw [Memory.writeFrom]
    cases k with
    | zero =>
      exact (read_writeFrom_outside (.inl (Nat.lt_add_one a))).trans (read_write_same m a b)
    | succ k =>
      rw [← Nat.add_assoc, Nat.add_right_comm, ih (Nat.lt_of_succ_lt_succ hk),
        List.getElem?_cons_succ]

theorem holds_writeFrom (m : Memory) (bs : List Byte) : holds (m.writeFrom 0 bs) bs := by
  intro k hk
  rw [← read_writeFrom_inside (m := m) (a := 0) hk, Nat.zero_add]

/-! ## A counter over several counts (spec 10_state R38, R40) -/

/-- A counter that stands at m and counts n more stops at its limit or at their sum. -/
theorem satInc_iterate_saturated (n m : Nat) : satInc^[n] (saturated m) = saturated (m + n) := by
  induction n generalizing m with
  | zero => rfl
  | succ n ih => rw [Function.iterate_succ_apply, satInc_saturated, ih, Nat.add_right_comm]; rfl

theorem satInc_iterate_iterate (m n : Nat) (w : Word) :
    satInc^[n] (satInc^[m] w) = satInc^[m + n] w := by
  rw [Nat.add_comm, Function.iterate_add_apply]

/-- What a counter holds that an acceptance has cleared and that has counted n. -/
theorem satInc_iterate_zero (n : Nat) : satInc^[n] 0 = saturated n := by
  rw [← Nat.zero_add n, ← satInc_iterate_saturated, Nat.zero_add]
  rfl

/-! ## The wire form of a frame (spec 30_encoding R91, 42_framer R140, R177) -/

theorem escape_cons_append_singleton (l c : Byte) (p : List Byte) :
    escape (l :: p ++ [c]) = escape [l] ++ escape p ++ escape [c] := by
  rw [escape_append, ← List.singleton_append, escape_append]

/-- What a frame with a stuffed length byte has between the raw TYPE byte and the end marker. -/
def frameFields (t l : Byte) (p : List Byte) : List Byte :=
  escape (l :: p ++ [checksum (t :: l :: p)])

/-- A frame is its start marker, its raw type, its escaped fields and its end marker. -/
theorem encodeFrame_stuffed (t l : Byte) (p : List Byte) :
    encodeFrame true t l p = [marker, t] ++ frameFields t l p ++ [marker, endByte] := by
  rw [frameFields, escape_cons_append_singleton]
  simp [encodeFrame, escLen]

theorem encodeFrame_stuffed_length (t l : Byte) (p : List Byte) :
    (encodeFrame true t l p).length = (frameFields t l p).length + 4 := by
  rw [encodeFrame_stuffed]
  simp only [List.length_append, List.length_cons, List.length_nil]
  omega

/-- What is offered of a sequence is offered of its parts. -/
theorem offered_append (a b : List Byte) : offered (a ++ b) = offered a ++ offered b :=
  List.map_append

/-- A length up to 255 is what its byte says. -/
theorem length_eq_toNat_ofNat {p : List Byte} (hp : p.length ≤ 255) :
    p.length = (BitVec.ofNat 8 p.length).toNat :=
  (Nat.mod_eq_of_lt (Nat.lt_succ_of_le hp)).symm

/-- A change of a wire byte of an escaped sequence that involves no marker is a change of one byte
of the sequence. -/
theorem exists_escape_eq_set {p : List Byte} {n : Nat} {x y : Byte}
    (hbyte : (escape p)[n]? = some x) (hx : x ≠ marker) (hy : y ≠ marker) :
    ∃ a b, p = a ++ x :: b ∧ (escape p).set n y = escape (a ++ y :: b) := by
  induction p generalizing n with
  | nil => cases hbyte
  | cons c p ih =>
    by_cases hc : c = marker
    · subst hc
      match n with
      | 0 | 1 => exact absurd (Option.some.inj hbyte).symm hx
      | n + 2 =>
        obtain ⟨a, b, rfl, hset⟩ := ih (n := n) hbyte
        exact ⟨marker :: a, b, rfl, congrArg (marker :: marker :: ·) hset⟩
    · rw [escape_cons_ne c p hc] at hbyte ⊢
      cases n with
      | zero =>
        obtain rfl : c = x := Option.some.inj hbyte
        exact ⟨[], p, rfl, (escape_cons_ne y p hy).symm⟩
      | succ n =>
        obtain ⟨a, b, rfl, hset⟩ := ih (n := n) hbyte
        refine ⟨c :: a, b, rfl, ?_⟩
        rw [List.cons_append, escape_cons_ne c _ hc, ← hset]
        rfl

/-! ## PARSE's step on a byte, phase by phase (spec 42_framer R160) -/

/-- s after n bytes of the RX source are consumed and counted, with rest still offered. -/
def State.consume (n : Nat) (rest : List RxEvent) (s : State) : State :=
  { s with rxPending := rest, rxcnt := satInc^[n] s.rxcnt }

/-- Bytes consumed in two goes are consumed in one. -/
theorem consume_consume (m n : Nat) (es rest : List RxEvent) (s : State) :
    (s.consume m es).consume n rest = s.consume (m + n) rest := by
  simp only [State.consume, satInc_iterate_iterate]

/-- A received byte goes on to the work of its phase. -/
theorem rxRaw_andThen_byte {s : State} {b : Byte} {rest : List RxEvent}
    (hrx : s.rxPending = .byte b :: rest)
    (k : Byte → State → Host.Outcome State Fault Refusal) :
    s.rxRaw.andThen s k = k b (s.consume 1 rest) := by
  rw [rxRaw_byte s b rest hrx]
  rfl

/-- An arriving value goes on to the work of its phase, at a byte boundary. -/
theorem unesc_andThen_arrives {s : State} {b v : Byte} {rest : List RxEvent}
    (hrx : s.rxPending = .byte b :: rest) (ha : arrives s b v)
    (k : Byte → State → Host.Outcome State Fault Refusal) :
    s.unesc.andThen s k = k v { s.consume 1 rest with escp := false } := by
  rw [unesc_arrives s b v rest hrx ha]
  rfl

section RawByte

variable {s : State} {b : Byte} {rest : List RxEvent} (hrx : s.rxPending = .byte b :: rest)

include hrx

theorem parseTurn_hunt_byte (hp : s.phase = .hunt) :
    s.parseTurn = .next (parseHunt b (s.consume 1 rest)) := by
  rw [parseTurn_hunt hp, rxRaw_andThen_byte hrx]

theorem parseTurn_type_byte (hp : s.phase = .type) :
    s.parseTurn = .next (parseType b (s.consume 1 rest)) := by
  simp [State.parseTurn, hp, rxRaw_andThen_byte hrx]

/-- The start byte on the end-of-message path is looked at by nothing (R166). -/
theorem parseTurn_eomStart_byte (hp : s.phase = .eomStart) :
    s.parseTurn = .next { s.consume 1 rest with phase := .eomType } := by
  simp [State.parseTurn, hp, rxRaw_andThen_byte hrx]

theorem parseTurn_eomType_byte (hp : s.phase = .eomType) :
    s.parseTurn = .next (parseEomType b (s.consume 1 rest)) := by
  simp [State.parseTurn, hp, rxRaw_andThen_byte hrx]

theorem parseTurn_end1_byte (hp : s.phase = .end1) :
    s.parseTurn = .next { s.consume 1 rest with hidE1 := b, phase := .end2 } := by
  simp [State.parseTurn, hp, rxRaw_andThen_byte hrx]

theorem parseTurn_end2_byte (hp : s.phase = .end2) :
    s.parseTurn = .next (parseEnd2 b (s.consume 1 rest)) := by
  simp [State.parseTurn, hp, rxRaw_andThen_byte hrx]

end RawByte

/-- END takes the end-of-message path (R166). -/
theorem parseType_end (s : State) :
    parseType endByte s = { s with hidT := endByte, eom := true, phase := .eomStart } :=
  if_pos rfl

/-- Any other byte is the type (R164). -/
theorem parseType_of_ne {b : Byte} (hb : b ≠ endByte) (s : State) :
    parseType b s = { s with hidT := b, rxtype := b, phase := .len } :=
  if_neg hb

/-- Settles O21: END is the one type byte that does not end the phases of the type. -/
theorem parseReadsTypeRaw : Obligations.ParseReadsTypeRaw := by
  intro s ty len b rest hb hrx
  rw [exec_parse_busy ty len hb]
  refine ⟨fun hp hne => ?_, fun hp he => ?_, fun hp => ?_, fun hp => ?_⟩
  · rw [parseTurn_type_byte hrx hp, parseType_of_ne hne]
    rfl
  · subst he
    exact (parseTurn_type_byte hrx hp).trans (congrArg _ (parseType_end _))
  · exact parseTurn_eomStart_byte hrx hp
  · exact parseTurn_eomType_byte hrx hp

/-- PARSE's step in CKSUM. -/
theorem parseTurn_cksum {s : State} (hp : s.phase = .cksum) :
    s.parseTurn = s.unesc.andThen s fun b u => parseCksum b u := by
  simp [State.parseTurn, hp]

section Checksum

variable {s : State} {p : List Byte} (hl : p.length = s.hidL.toNat) (hh : holds s.rxbuf p)

include hl hh

/-- A checksum byte that is the checksum of the type, length and payload read is stored twice. -/
theorem parseCksum_agrees {c : Byte} (hc : c = checksum (s.hidT :: s.hidL :: p)) :
    parseCksum c s = .next { s with rxRecv := c, rxCalc := c, phase := .end1 } := by
  simp [parseCksum, rxBytes_of_holds s s.hidL p hl hh, ← hc]

/-- Any other checksum byte raises, with both checksums stored (R171). -/
theorem parseCksum_differs {c : Byte} (hc : c ≠ checksum (s.hidT :: s.hidL :: p)) :
    parseCksum c s = .next (({ s with
      rxRecv := c, rxCalc := checksum (s.hidT :: s.hidL :: p) } : State).raise
        .checksumMismatch) := by
  simp [parseCksum, rxBytes_of_holds s s.hidL p hl hh, hc]

end Checksum

/-- Settles O24: the value that arrives is compared with the checksum of what was read. -/
theorem parseComparesChecksum : Obligations.ParseComparesChecksum := by
  intro s ty len b v rest p hb hp hrx ha hl hh
  rw [exec_parse_busy ty len hb, parseTurn_cksum hp, unesc_andThen_arrives hrx ha]
  split
  case isTrue hv =>
    exact parseCksum_agrees (s := { s.consume 1 rest with escp := false }) hl hh hv
  case isFalse hv =>
    exact parseCksum_differs (s := { s.consume 1 rest with escp := false }) hl hh hv

/-- The end marker completes PARSE. -/
theorem parseEnd2_endMarker {s : State} (he : s.hidE1 = marker) :
    parseEnd2 endByte s = s.complete :=
  if_neg (not_or.mpr ⟨not_not.mpr he, not_not.mpr rfl⟩)

/-- Any other pair of bytes raises (R172). -/
theorem parseEnd2_other {s : State} {b : Byte} (he : s.hidE1 ≠ marker ∨ b ≠ endByte) :
    parseEnd2 b s = s.raise .framingEnd :=
  if_pos he

/-- Settles O25: END1 holds its byte, END2 compares the pair. -/
theorem parseChecksEndMarker : Obligations.ParseChecksEndMarker := by
  intro s ty len b rest hb hrx
  rw [exec_parse_busy ty len hb]
  refine ⟨fun hp => ?_, fun hp he => ?_, fun hp he => ?_⟩
  · exact parseTurn_end1_byte hrx hp
  · obtain ⟨he1, rfl⟩ := he
    exact (parseTurn_end2_byte hrx hp).trans (congrArg _ (parseEnd2_endMarker he1))
  · exact (parseTurn_end2_byte hrx hp).trans (congrArg _ (parseEnd2_other (not_and_or.mp he)))

/-! ## CHUNK and FRAME (spec 42_framer R152) -/

/-- Settles O32: both commands are accepted, and N + 4 counts the offset's bytes and the data. -/
theorem chunkSendsFrameOfOffsetAndData : Obligations.ChunkSendsFrameOfOffsetAndData := by
  intro s u ty n d hn hd hs hu hcfg hhs hhu
  have hlen : (le32 s.offset ++ d).length = (n + 4).toNat := by
    rw [List.length_append, le32_length, hd, BitVec.toNat_add, Nat.add_comm]
    exact (Nat.mod_eq_of_lt (by change n.toNat + 4 < 256; omega)).symm
  refine ⟨_, _, exec_transmit_accept ⟨ty, .inr (.inr ⟨rfl, hn⟩)⟩ hs hd hhs rfl,
    exec_transmit_accept ⟨ty, .inr (.inl rfl)⟩ hu hlen hhu rfl, ?_, rfl⟩
  rw [startTx_txseq, startTx_txseq, hcfg]

/-! ## A run of PARSE (spec 42_framer R160 to R173) -/

theorem runFor_one (s : State) : runFor 1 s = step s := by
  unfold runFor
  cases step s <;> rfl

/-- PARSE executes in a phase, and the engine has the next turn. -/
structure ParsingIn (p : Phase) (s : State) : Prop where
  agenda : s.agenda = []
  busy : s.busy = true
  cmd : ∃ ty len, decode s.cmd = .ok (.parse ty len)
  phase : s.phase = p

theorem ParsingIn.step {p : Phase} {s : State} (h : ParsingIn p s) : step s = s.parseTurn := by
  obtain ⟨ty, len, hd⟩ := h.cmd
  rw [step_nil s h.agenda, engineTurn_busy s _ h.busy hd, exec_parse_busy ty len h.busy]

/-- A run of PARSE by its first step. -/
theorem ParsingIn.runFor_succ {p : Phase} {s t : State} {n : Nat} (h : ParsingIn p s)
    (hturn : s.parseTurn = .next t) : runFor (n + 1) s = runFor n t :=
  Machine.runFor_succ n s t (h.step.trans hturn)

/-- s with PARSE accepted. -/
def State.acceptParse (ty len : Byte) (s : State) : State :=
  (({ s with agenda := [] } : State).accept (encode (.parse ty len))).start .hunt

theorem step_acceptParse {s : State} {ty len : Byte} (hb : s.busy = false)
    (ha : s.agenda = [.host (.write .word s.cfg.bscBase (encode (.parse ty len)))]) :
    step s = .next (s.acceptParse ty len) :=
  (step_cmdWrite_idle ha hb (decode_encode _)).trans
    (exec_parse_idle (s := { s with agenda := [] }) hb ty len)

theorem acceptParse_parsingIn (ty len : Byte) (s : State) :
    ParsingIn .hunt (s.acceptParse ty len) :=
  ⟨rfl, rfl, ⟨ty, len, decode_encode _⟩, rfl⟩

/-! ### The start of a frame -/

/-- HUNT skips and counts bytes that are no marker, one a step. -/
theorem runFor_hunt {s : State} {j : List Byte} {rest : List RxEvent} (h : ParsingIn .hunt s)
    (hj : ∀ b ∈ j, b ≠ marker) (hrx : s.rxPending = offered j ++ rest) :
    runFor j.length s = .next { s.consume j.length rest with
      skipcnt := satInc^[j.length] s.skipcnt } := by
  induction j generalizing s with
  | nil =>
    obtain rfl : s.rxPending = rest := hrx
    rfl
  | cons b j ih =>
    obtain ⟨hb, hj⟩ := List.forall_mem_cons.mp hj
    have hskip := parseTurn_hunt_byte hrx h.phase
    rw [parseHunt, if_neg hb] at hskip
    exact (h.runFor_succ hskip).trans (ih { h with } hj rfl)

/-- A marker and a type other than END start a frame. -/
theorem runFor_startMarker {s : State} {t : Byte} {rest : List RxEvent} (h : ParsingIn .hunt s)
    (ht : t ≠ endByte) (hrx : s.rxPending = offered [marker, t] ++ rest) :
    runFor 2 s = .next { s.consume 2 rest with hidT := t, rxtype := t, phase := .len } :=
  calc runFor 2 s
    _ = runFor 1 { s.consume 1 (offered [t] ++ rest) with phase := .type } :=
      h.runFor_succ (parseTurn_hunt_byte hrx h.phase)
    _ = runFor 0 (parseType t _) :=
      ParsingIn.runFor_succ (p := .type) { h with phase := rfl } (parseTurn_type_byte rfl rfl)
    _ = _ := by rw [parseType_of_ne ht]; rfl

/-- An end marker in the place of a start takes the end-of-message path: of the two bytes that
follow, the second is the type. -/
theorem runFor_endOfMessage {s : State} {x t : Byte} {rest : List RxEvent}
    (h : ParsingIn .hunt s) (hrx : s.rxPending = offered [marker, endByte, x, t] ++ rest) :
    runFor 4 s = .next { s.consume 4 rest with
      eom := true, hidT := t, rxtype := t, phase := .len } :=
  calc runFor 4 s
    _ = runFor 3 { s.consume 1 (offered [endByte, x, t] ++ rest) with phase := .type } :=
      h.runFor_succ (parseTurn_hunt_byte hrx h.phase)
    _ = runFor 2 { (s.consume 1 (offered [endByte, x, t] ++ rest)).consume 1
          (offered [x, t] ++ rest) with hidT := endByte, eom := true, phase := .eomStart } :=
      ParsingIn.runFor_succ (p := .type) { h with phase := rfl }
        (parseTurn_type_byte (b := endByte) rfl rfl)
    _ = runFor 2 { s.consume 2 (offered [x, t] ++ rest) with
          hidT := endByte, eom := true, phase := .eomStart } := by rw [consume_consume]
    _ = runFor 1 { (s.consume 2 (offered [x, t] ++ rest)).consume 1 (offered [t] ++ rest) with
          hidT := endByte, eom := true, phase := .eomType } :=
      ParsingIn.runFor_succ (p := .eomStart) { h with phase := rfl }
        (parseTurn_eomStart_byte rfl rfl)
    _ = runFor 0 { ((s.consume 2 (offered [x, t] ++ rest)).consume 1
          (offered [t] ++ rest)).consume 1 rest with
            eom := true, hidT := t, rxtype := t, phase := .len } :=
      ParsingIn.runFor_succ (p := .eomType) { h with phase := rfl }
        (parseTurn_eomType_byte rfl rfl)
    _ = _ := by rw [consume_consume, consume_consume, runFor_zero]

/-! ### The escaped fields -/

/-- A phase with an escaped byte reads the escaped form of a value, one wire byte a step, and does
its work with the last one: a marker in two steps, any other value in one. -/
theorem runFor_escaped {p : Phase} {s : State} {v : Byte} {rest : List RxEvent}
    {k : Byte → State → Host.Outcome State Fault Refusal}
    (hk : ∀ {u : State}, u.phase = p → u.parseTurn = u.unesc.andThen u k) (h : ParsingIn p s)
    (he : s.escp = false) (hrx : s.rxPending = offered (escape [v]) ++ rest) :
    runFor (escape [v]).length s =
      k v { s.consume (escape [v]).length rest with escp := false } := by
  by_cases hm : v = marker
  · subst hm
    have hfirst := hk h.phase
    rw [unesc_first_marker s (.byte marker :: rest) hrx he, andThen_more] at hfirst
    have hsecond : ParsingIn p
        { s with rxPending := .byte marker :: rest, rxcnt := satInc s.rxcnt, escp := true } :=
      { h with }
    refine (h.runFor_succ (n := 1) hfirst).trans ((runFor_one _).trans ?_)
    rw [hsecond.step, hk hsecond.phase,
      unesc_andThen_arrives (v := marker) rfl (.inr ⟨rfl, rfl, rfl⟩)]
    rfl
  · rw [escape_cons_ne v [] hm] at hrx ⊢
    refine (runFor_one s).trans ?_
    rw [h.step, hk h.phase, unesc_andThen_arrives hrx (.inl ⟨he, hm, rfl⟩)]
    rfl

/-- s with what is missing of the payload, p, read from n wire bytes. -/
def State.readPayload (p : List Byte) (n : Nat) (rest : List RxEvent) (s : State) : State :=
  { s.consume n rest with
    escp := false, rxbuf := s.rxbuf.writeFrom s.idx p, idx := s.idx + p.length, phase := .cksum }

/-- A payload byte that is not the last leaves the rest to be read. -/
theorem parsePayload_more {s : State} (h : s.idx + 1 < s.hidL.toNat) (b : Byte) :
    parsePayload b s = { s with
      rxbuf := s.rxbuf.write s.idx b, idx := s.idx + 1, phase := .payload } := by
  rw [parsePayload, if_pos h]

/-- The last payload byte ends the phase. -/
theorem parsePayload_last {s : State} (h : s.idx + 1 = s.hidL.toNat) (b : Byte) :
    parsePayload b s = { s with
      rxbuf := s.rxbuf.write s.idx b, idx := s.idx + 1, phase := .cksum } := by
  rw [parsePayload, if_neg h.not_lt]

/-- PAYLOAD reads what is missing of the declared length into RXBUF, from IDX on. -/
theorem runFor_payload {s : State} {p : List Byte} {rest : List RxEvent} (h : ParsingIn .payload s)
    (he : s.escp = false) (hne : p ≠ []) (hl : s.idx + p.length = s.hidL.toNat)
    (hrx : s.rxPending = offered (escape p) ++ rest) :
    runFor (escape p).length s = .next (s.readPayload p (escape p).length rest) := by
  induction p generalizing s with
  | nil => exact absurd rfl hne
  | cons b p ih =>
    have hcons : escape (b :: p) = escape [b] ++ escape p := escape_append [b] p
    rw [hcons, offered_append, List.append_assoc] at hrx
    have hfirst := runFor_escaped parseTurn_payload h he hrx
    rw [List.length_cons] at hl
    rw [hcons, List.length_append]
    cases p with
    | nil =>
      rw [parsePayload_last (by exact hl)] at hfirst
      exact hfirst
    | cons c p =>
      rw [List.length_cons] at hl
      rw [parsePayload_more (by change s.idx + 1 < s.hidL.toNat; omega)] at hfirst
      rw [runFor_add _ _ s _ hfirst]
      refine Eq.trans (ih { h with phase := rfl } rfl (List.cons_ne_nil _ _) ?_ rfl) ?_
      · change s.idx + 1 + (p.length + 1) = s.hidL.toNat
        omega
      · simp [State.readPayload, State.consume, Memory.writeFrom, satInc_iterate_iterate,
          Nat.add_assoc, Nat.add_comm 1]

/-- s with the length l and the payload p read from n wire bytes. -/
def State.readBody (l : Byte) (p : List Byte) (n : Nat) (rest : List RxEvent) (s : State) : State :=
  ({ s with hidL := l, rxlen := l, idx := 0 } : State).readPayload p n rest

/-- A length byte that is the length of a payload sends PARSE to the payload, if there is one. -/
theorem parseLen_of_length {l : Byte} {p : List Byte} (hl : p.length = l.toNat) (s : State) :
    parseLen l s = { s with
      hidL := l, rxlen := l, idx := 0, phase := if p = [] then .cksum else .payload } := by
  have hzero : l = 0 ↔ p = [] := by
    rw [← List.length_eq_zero_iff, hl, BitVec.toNat_eq]
    rfl
  simp only [parseLen, hzero]

/-- LEN and PAYLOAD read a length and a payload of that length. -/
theorem runFor_lenPayload {s : State} {l : Byte} {p : List Byte} {rest : List RxEvent}
    (h : ParsingIn .len s) (he : s.escp = false) (hl : p.length = l.toNat)
    (hrx : s.rxPending = offered (escape (l :: p)) ++ rest) :
    runFor (escape (l :: p)).length s =
      .next (s.readBody l p (escape (l :: p)).length rest) := by
  have hcons : escape (l :: p) = escape [l] ++ escape p := escape_append [l] p
  rw [hcons, offered_append, List.append_assoc] at hrx
  have hlen := runFor_escaped parseTurn_len h he hrx
  rw [parseLen_of_length hl] at hlen
  rw [hcons, List.length_append]
  by_cases hp : p = []
  · subst hp
    exact hlen
  · rw [if_neg hp] at hlen
    rw [runFor_add _ _ s _ hlen]
    refine Eq.trans (runFor_payload { h with phase := rfl } rfl hp ?_ rfl) ?_
    · exact (Nat.zero_add _).trans hl
    · simp [State.readBody, State.readPayload, State.consume, satInc_iterate_iterate]

/-- From LEN through CKSUM PARSE reads one escaped sequence: the length, the payload and a byte c,
which it compares with the checksum of what it read. -/
theorem runFor_fields {s : State} {l c : Byte} {p : List Byte} {rest : List RxEvent}
    (h : ParsingIn .len s) (he : s.escp = false) (hl : p.length = l.toNat)
    (hrx : s.rxPending = offered (escape (l :: p ++ [c])) ++ rest) :
    runFor (escape (l :: p ++ [c])).length s =
      parseCksum c (s.readBody l p (escape (l :: p ++ [c])).length rest) := by
  rw [escape_append, offered_append, List.append_assoc] at hrx
  rw [escape_append, List.length_append, runFor_add _ _ s _ (runFor_lenPayload h he hl hrx)]
  refine Eq.trans (runFor_escaped parseTurn_cksum { h with phase := rfl } rfl rfl) ?_
  simp [State.readBody, State.readPayload, State.consume, satInc_iterate_iterate]

/-! ### The end of a frame -/

/-- The end marker of a frame whose checksum matched completes PARSE. -/
theorem runFor_endMarker {s : State} {rest : List RxEvent} (h : ParsingIn .end1 s)
    (hrx : s.rxPending = offered [marker, endByte] ++ rest) :
    runFor 2 s = .next ({ s.consume 2 rest with hidE1 := marker } : State).complete :=
  calc runFor 2 s
    _ = runFor 1 { s.consume 1 (offered [endByte] ++ rest) with
          hidE1 := marker, phase := .end2 } := h.runFor_succ (parseTurn_end1_byte hrx h.phase)
    _ = runFor 0 (parseEnd2 endByte _) :=
      ParsingIn.runFor_succ (p := .end2) { h with phase := rfl } (parseTurn_end2_byte rfl rfl)
    _ = _ := congrArg Host.Outcome.next (parseEnd2_endMarker rfl)

/-- s with a frame of the type it holds, of length l and payload p, read to its end, n wire bytes
from LEN on. -/
def State.readFrame (l : Byte) (p : List Byte) (n : Nat) (rest : List RxEvent) (s : State) :
    State :=
  ({ s.readBody l p n rest with
    rxRecv := checksum (s.hidT :: l :: p), rxCalc := checksum (s.hidT :: l :: p)
    hidE1 := marker } : State).complete

/-- From LEN on PARSE completes over the fields of a frame and an end marker. -/
theorem runFor_frame {s : State} {t l : Byte} {p : List Byte} {rest : List RxEvent}
    (h : ParsingIn .len s) (he : s.escp = false) (ht : s.hidT = t) (hl : p.length = l.toNat)
    (hrx : s.rxPending = offered (frameFields t l p) ++ (offered [marker, endByte] ++ rest)) :
    runFor ((frameFields t l p).length + 2) s =
      .next (s.readFrame l p ((frameFields t l p).length + 2) rest) := by
  subst ht
  have hck := (runFor_fields h he hl hrx).trans
    (parseCksum_agrees hl (holds_writeFrom s.rxbuf p) rfl)
  rw [frameFields, runFor_add _ _ s _ hck]
  refine Eq.trans (runFor_endMarker { h with phase := rfl } rfl) ?_
  simp [State.readFrame, State.readBody, State.readPayload, State.consume, State.complete,
    satInc_iterate_iterate]

/-! ### Whole frames -/

/-- s with PARSE accepted, the stray bytes j skipped and the type t read. -/
def State.readStart (ty len t : Byte) (j : List Byte) (rest : List RxEvent) (s : State) : State :=
  { (s.acceptParse ty len).consume (j.length + 2) rest with
    skipcnt := saturated j.length, hidT := t, rxtype := t, phase := .len }

/-- s with PARSE accepted and the type t read on the end-of-message path. -/
def State.readResume (ty len t : Byte) (rest : List RxEvent) (s : State) : State :=
  { (s.acceptParse ty len).consume 4 rest with
    eom := true, hidT := t, rxtype := t, phase := .len }

section Start

variable {s : State} {ty len t : Byte} {rest : List RxEvent} (hb : s.busy = false)
  (ha : s.agenda = [.host (.write .word s.cfg.bscBase (encode (.parse ty len)))])

include hb ha

/-- PARSE accepted before stray bytes, a marker and a type stands at LEN after them. -/
theorem runFor_readStart {j : List Byte} (hj : ∀ b ∈ j, b ≠ marker) (ht : t ≠ endByte)
    (hrx : s.rxPending = offered j ++ (offered [marker, t] ++ rest)) :
    runFor (1 + (j.length + 2)) s = .next (s.readStart ty len t j rest) := by
  have hparse := acceptParse_parsingIn ty len s
  rw [runFor_add 1 _ s _ ((runFor_one s).trans (step_acceptParse hb ha)),
    runFor_add _ 2 _ _ (runFor_hunt hparse hj hrx)]
  refine Eq.trans (runFor_startMarker { hparse with } ht rfl) ?_
  simp only [State.readStart, State.consume, satInc_iterate_iterate, ← satInc_iterate_zero]
  rfl

/-- PARSE accepted before an end marker, a start byte and a type stands at LEN after them. -/
theorem runFor_readResume {x : Byte}
    (hrx : s.rxPending = offered [marker, endByte, x, t] ++ rest) :
    runFor (1 + 4) s = .next (s.readResume ty len t rest) := by
  rw [runFor_add 1 _ s _ ((runFor_one s).trans (step_acceptParse hb ha)),
    runFor_endOfMessage (acceptParse_parsingIn ty len s) hrx]
  rfl

end Start

/-- Settles O35: the stray bytes and the start marker are read, then the frame from LEN on. -/
theorem parseInvertsEncodeFrame : Obligations.ParseInvertsEncodeFrame := by
  intro s ty len t j p r ht hp hj hb ha hrx
  have hl := length_eq_toNat_ofNat hp
  set l := BitVec.ofNat 8 p.length
  obtain ⟨rest, hrest⟩ :
      ∃ rest, rest = offered (frameFields t l p) ++ (offered [marker, endByte] ++ r) := ⟨_, rfl⟩
  have hstart : runFor (1 + (j.length + 2)) s = .next (s.readStart ty len t j rest) :=
    runFor_readStart hb ha hj ht (by simp [hrx, hrest, encodeFrame_stuffed, offered])
  have hframe := runFor_frame (t := t) (s := s.readStart ty len t j rest)
    { acceptParse_parsingIn ty len s with phase := rfl } rfl rfl hl hrest
  have hcount : satInc^[(frameFields t l p).length + 2] (satInc^[j.length + 2] 0) =
      saturated (j.length + (encodeFrame true t l p).length) := by
    rw [satInc_iterate_iterate, satInc_iterate_zero, encodeFrame_stuffed_length]
    congr 1
    omega
  refine ⟨_, .trans ?_ hframe, rfl, rfl, rfl, rfl, rfl, hl.symm, holds_writeFrom s.rxbuf p,
    fun k hk => read_writeFrom_outside (.inr ((Nat.zero_add _).trans_le hk)), rfl, rfl, rfl, hcount,
    rfl, rfl, rfl, rfl, rfl, rfl, rfl⟩
  rw [encodeFrame_stuffed_length, ← runFor_add _ _ s _ hstart]
  congr 1
  omega

/-- Settles O36: the end marker puts PARSE on the end-of-message path, which ends at LEN, and the
frame is read from there. -/
theorem parseResumesAfterEndMarker : Obligations.ParseResumesAfterEndMarker := by
  intro s ty len t p r hp hb ha hrx
  have hl := length_eq_toNat_ofNat hp
  set l := BitVec.ofNat 8 p.length
  obtain ⟨rest, hrest⟩ :
      ∃ rest, rest = offered (frameFields t l p) ++ (offered [marker, endByte] ++ r) := ⟨_, rfl⟩
  have hstart : runFor (1 + 4) s = .next (s.readResume ty len t rest) :=
    runFor_readResume (x := marker) hb ha
      (by simp [hrx, hrest, encodeFrame_stuffed, offered, marker, endByte])
  have hframe := runFor_frame (t := t) (s := s.readResume ty len t rest)
    { acceptParse_parsingIn ty len s with phase := rfl } rfl rfl hl hrest
  refine ⟨_, .trans ?_ hframe, rfl, rfl, rfl, rfl, rfl, hl.symm, holds_writeFrom s.rxbuf p,
    rfl, rfl⟩
  rw [encodeFrame_stuffed_length, ← runFor_add _ _ s _ hstart]
  congr 1
  omega

/-- Settles O37: the frame is read as one whose payload differs in one byte, so its checksum is not
the one that arrives. -/
theorem corruptPayloadByteRaisesMismatch : Obligations.CorruptPayloadByteRaisesMismatch := by
  intro s ty len t x y j p n r ht hp hj hb hbyte hx hy hne ha hrx
  obtain ⟨a, b, rfl, hset⟩ := exists_escape_eq_set hbyte hx hy
  have hl := length_eq_toNat_ofNat hp
  set l := BitVec.ofNat 8 (a ++ x :: b).length
  set c := checksum (t :: l :: (a ++ x :: b))
  have hl' : (a ++ y :: b).length = l.toNat := by rw [← hl]; simp
  have hchecksum : c ≠ checksum (t :: l :: (a ++ y :: b)) :=
    (checksum_change_ne (t :: l :: a) b hne.symm).symm
  obtain ⟨rest, hrest⟩ : ∃ rest, rest =
      offered (escape (l :: (a ++ y :: b) ++ [c])) ++ (offered [marker, endByte] ++ r) := ⟨_, rfl⟩
  have hstart : runFor (1 + (j.length + 2)) s = .next (s.readStart ty len t j rest) :=
    runFor_readStart hb ha hj ht (by
      rw [hrx, hrest, hset, escape_cons_append_singleton]
      simp [offered, marker, endByte])
  have hread := (runFor_fields (s := s.readStart ty len t j rest)
    { acceptParse_parsingIn ty len s with phase := rfl } rfl hl' hrest).trans
      (parseCksum_differs hl' (holds_writeFrom s.rxbuf _) hchecksum)
  have hlength : (escape (l :: (a ++ y :: b) ++ [c])).length =
      (frameFields t l (a ++ x :: b)).length := by
    change _ = (escape (l :: (a ++ x :: b) ++ [c])).length
    rw [escape_cons_append_singleton, escape_cons_append_singleton, ← hset]
    simp only [List.length_append, List.length_set]
  refine ⟨_, .trans ?_ hread, rfl, rfl, rfl, hchecksum, rfl⟩
  rw [encodeFrame_stuffed_length, ← hlength, ← runFor_add _ _ s _ hstart]
  congr 1
  omega

end Sys2Proof.Machine

/-! ## A sound engine never stops (spec 60_exceptions R190, R201) -/

namespace Sys2Proof.Machine

/-- A raw receive step answers if the work on a received byte does. -/
theorem rxRaw_andThen_answers {s : State} {k : Byte → State → Host.Outcome State Fault Refusal}
    (hk : ∀ b u, ∃ t, k b u = .next t) : ∃ t, s.rxRaw.andThen s k = .next t := by
  rcases rxRaw_cases s with ⟨-, e⟩ | ⟨es, -, e⟩ | ⟨b, es, -, e⟩ <;> rw [e]
  · exact ⟨_, andThen_wait s k⟩
  · exact ⟨_, andThen_failed s _ _ k⟩
  · exact hk b _

/-- An escaped receive step answers if the work on an arrived value does: that work starts from the
state with the receive fields changed and no other. -/
theorem unesc_andThen_answers {s : State} {k : Byte → State → Host.Outcome State Fault Refusal}
    (hk : ∀ v es n, ∃ t, k v { s with rxPending := es, rxcnt := n, escp := false } = .next t) :
    ∃ t, s.unesc.andThen s k = .next t := by
  rcases unesc_cases s with ⟨-, e⟩ | ⟨es, -, e⟩ | ⟨es, -, -, e⟩ | ⟨b, es, -, -, -, e⟩ |
    ⟨b, v, es, -, -, e⟩ <;> rw [e]
  · exact ⟨_, andThen_wait s k⟩
  · exact ⟨_, andThen_failed s _ _ k⟩
  · exact ⟨_, andThen_more s _ k⟩
  · exact ⟨_, andThen_failed s _ _ k⟩
  · exact hk v es _

/-- Over a written payload the checksum step ends in agreement or in the block's error. -/
theorem parseCksum_answers {s : State} (hw : (s.rxBytes s.hidL).isSome = true) (c : Byte) :
    ∃ t, parseCksum c s = .next t := by
  obtain ⟨p, hp⟩ := Option.isSome_iff_exists.mp hw
  obtain ⟨hl, hh⟩ := holds_of_range s.rxbuf p _ hp
  by_cases hc : c = checksum (s.hidT :: s.hidL :: p)
  · exact ⟨_, parseCksum_agrees hl hh hc⟩
  · exact ⟨_, parseCksum_differs hl hh hc⟩

/-- PARSE's step answers in every phase: only CKSUM reads a buffer, and there the payload is written. -/
theorem Inv.parseTurn_answers {s : State} (h : Inv s) : ∃ t, s.parseTurn = .next t := by
  unfold State.parseTurn
  cases hp : s.phase
  case hunt | type | eomStart | eomType | end1 | end2 =>
    exact rxRaw_andThen_answers fun _ _ => ⟨_, rfl⟩
  case len | payload => exact unesc_andThen_answers fun _ _ _ => ⟨_, rfl⟩
  case cksum =>
    have hw := h.payloadWritten hp
    exact unesc_andThen_answers fun v es n =>
      parseCksum_answers (s := { s with rxPending := es, rxcnt := n, escp := false }) hw v
  -- no phase of PARSE: it has no step
  all_goals exact ⟨_, rfl⟩

/-- The calculating step of a sound CKSUM finds its operand written. -/
theorem exec_cksum_answers {s : State} {ty len : Byte} (h : Inv s) (hp : s.phase = .calc)
    (hd : decode s.cmd = .ok (.cksum ty len)) : ∃ t, exec (.cksum ty len) s = .next t := by
  obtain ⟨ty', len', hd', hw⟩ := h.calcOperand hp
  obtain ⟨rfl, rfl⟩ : ty = ty' ∧ len = len' := by simpa using hd.symm.trans hd'
  obtain ⟨bs, hbs⟩ := Option.isSome_iff_exists.mp hw
  obtain ⟨hl, hh⟩ := holds_of_range s.txbuf bs _ hbs
  have hb : s.busy = true := h.busy (by simp [hp])
  rw [exec_cksum_calc hb hp, withOperand_of_holds s len bs _ hl hh]
  exact ⟨_, rfl⟩

/-- In a sound state the engine's turn answers, by the command the phase belongs to. -/
theorem Inv.engineTurn_answers {s : State} (h : Inv s) : ∃ t, s.engineTurn = .next t := by
  cases hb : s.busy with
  | false => exact ⟨s, engineTurn_idle s hb⟩
  | true =>
    obtain ⟨i, hd, hi⟩ := h.running hb
    rw [engineTurn_busy s i hb hd]
    rcases phasesOf_cases hi with ⟨hp, ht⟩ | ⟨hp, ty, len, rfl⟩ | ⟨hp, ty, len, rfl⟩ |
      ⟨-, ty, len, rfl⟩
    · exact ⟨_, exec_transmit ht hb hp⟩
    · exact exec_cksum_answers h hp hd
    · rw [exec_unesc_receiving ty len hb hp]
      exact unesc_andThen_answers fun _ _ _ => ⟨_, rfl⟩
    · rw [exec_parse_busy ty len hb]
      exact h.parseTurn_answers

/-- Settles O52, by the turn that stands first: the engine's turn answers, the turns of the ports and
power-on always do, and the others are the accesses and the outside agents. -/
theorem onlyAccessesStop : Obligations.OnlyAccessesStop := by
  intro s h hstop
  cases ha : s.agenda with
  | nil =>
    obtain ⟨t, ht⟩ := h.engineTurn_answers
    exact absurd ((step_nil s ha).trans ht) (hstop t)
  | cons a rest =>
    have hturn := step_cons s a rest ha
    cases a with
    | host x => exact ⟨rest, .inl ⟨x, rfl⟩⟩
    | otherHost x => exact ⟨rest, .inr (.inl ⟨x, rfl⟩)⟩
    | otherWriter b => exact ⟨rest, .inr (.inr ⟨b, rfl⟩)⟩
    | engine =>
      have hrest : Inv { s with agenda := rest } := { h with }
      obtain ⟨t, ht⟩ := hrest.engineTurn_answers
      exact absurd (hturn.trans ht) (hstop t)
    | rxOffer | txAccept | powerOn => exact absurd hturn (hstop _)

end Sys2Proof.Machine

/-! ## Reads of unwritten buffer bytes, and the resets (spec 70_reset_and_hazards R221, R222, R224) -/

namespace Sys2Proof.Machine

/-! ### A host read of a buffer byte -/

/-- A host read of a register faults exactly when the register has no value. -/
theorem step_read_fault_iff {s : State} {off : Nat} {rest : List Action}
    (ha : s.agenda = .host (.read .word (s.cfg.bscBase + off)) :: rest)
    (hlt : off < windowBytes) (h4 : off % 4 = 0) :
    step s = .fault .unwrittenRead ↔ s.readReg (Reg.ofOffset off) = none := by
  cases hv : s.readReg (Reg.ofOffset off) with
  | some v =>
    rw [step_read ha hlt h4 hv]
    exact ⟨nofun, nofun⟩
  | none =>
    refine iff_of_true ?_ rfl
    rw [step_cons s _ rest ha]
    change ({ s with agenda := rest } : State).hostRead _ _ = _
    simp only [State.hostRead, reach_word s.cfg off hlt h4, readReg_agenda, hv]

theorem readReg_txbuf_eq_none_iff (s : State) (i : Nat) :
    s.readReg (.txbuf i) = none ↔ s.txbuf.read i = none := Option.map_eq_none_iff

theorem readReg_rxbuf_eq_none_iff (s : State) (i : Nat) :
    s.readReg (.rxbuf i) = none ↔ s.rxbuf.read i = none := Option.map_eq_none_iff

/-- Settles O42: the read reaches the register of that one byte, which has a value exactly when the
byte is written. -/
theorem unwrittenBufferReadFaults : Obligations.UnwrittenBufferReadFaults := by
  refine fun s i rest hi => ⟨fun ha => ?_, fun ha => ?_⟩ <;> rw [Nat.add_assoc] at ha
  · rw [step_read_fault_iff ha (by simp only [windowBytes]; omega) (by omega), ofOffset_txbuf i hi]
    exact readReg_txbuf_eq_none_iff s i
  · rw [step_read_fault_iff ha (by simp only [windowBytes]; omega) (by omega), ofOffset_rxbuf i hi]
    exact readReg_rxbuf_eq_none_iff s i

/-! ### Power-on reset -/

theorem powerOn_statusWord (s : State) : s.powerOn.statusWord = 0 := softReset_statusWord s

theorem powerOn_rxcksumWord (s : State) : s.powerOn.rxcksumWord = 0 := by
  have hzero : State.reset.rxcksumWord = 0 := by decide
  exact hzero

theorem powerOn_unwritten (s : State) (i : Nat) :
    s.powerOn.txbuf.read i = none ∧ s.powerOn.rxbuf.read i = none := ⟨read_nil i, read_nil i⟩

/-- The state after reset is one that power-on reset leaves. -/
theorem reset_eq_powerOn : State.reset = State.reset.powerOn := rfl

/-- Settles O47: power-on reset writes every register and both buffers, whatever the state was, and
State.reset is such a state with the default parameters. -/
theorem powerOnResetValues : Obligations.PowerOnResetValues := by
  refine ⟨fun s rest ha => ⟨_, step_cons s _ rest ha, ?_⟩, ?_⟩
  · exact ⟨rfl, powerOn_statusWord _, rfl, rfl, rfl, rfl, rfl, powerOn_rxcksumWord _, rfl, rfl, rfl,
      powerOn_unwritten _, rfl, rfl, rfl⟩
  · have hparam : State.reset.readReg .param = some 0x01FA0310 :=
      congrArg some (paramWord_eq Config.default)
    rw [reset_eq_powerOn]
    exact ⟨rfl, powerOn_statusWord _, rfl, rfl, rfl, rfl, powerOn_rxcksumWord _, rfl, rfl, rfl,
      powerOn_unwritten _, hparam⟩

/-! ### The state after reset is sound -/

/-- With any parameters whose window is aligned (spec 00_scope R13), no command executes after reset
and the buffers are empty. -/
theorem inv_resetWith {c : Config} (hc : c.bscBase % windowBytes = 0) : Inv (State.resetWith c) := by
  have hsteady : Steady (State.resetWith c) :=
    { txbufWf := wf_nil, rxbufWf := wf_nil, baseAligned := hc
      notDone := nofun, errDone := fun h => absurd rfl h, eomParse := nofun }
  exact hsteady.inv_of_idle rfl rfl rfl

/-- Settles O50: the default BSC_BASE is 0, which is aligned. -/
theorem resetIsSound : Obligations.ResetIsSound := inv_resetWith (Nat.zero_mod windowBytes)

end Sys2Proof.Machine
